-- ==== Sys2Proof/Word.lean ====
section
/-! DEFINITION. The two word types of the block: the byte (00_scope.md R9, BYTE_W = 8) and the
16-bit command word (30_encoding.md R70). Every quantity is unsigned (R9). -/

namespace Sys2Proof

/-- A data byte: a storage slot, a window slot, a report byte, `ledBits` (00_scope.md R7, BYTE_W). -/
abbrev Byte := BitVec 8

/-- A command word in the one encoded form, CW16 (30_encoding.md R70). -/
abbrev Word := BitVec 16

end Sys2Proof
end

