-- ==== Sys2Proof/Config.lean ====
section
/-! DEFINITION. What is fixed for the machine: the parameters of 00_scope.md R7 at their values, the
four agents (60_exceptions.md R180), the names of the seven operations (30_encoding.md R73) and which
agent owns each (60_exceptions.md R185). -/

namespace Sys2Proof

/-- The four agents of 60_exceptions.md R180. `producer` is P, `consumer` C, `host` H and
`resetSource` R. -/
inductive Agent where
  | producer
  | consumer
  | host
  | resetSource
deriving DecidableEq, Repr

/-- The names of the seven operations of 30_encoding.md R73, as the trace records them (10_state.md R39). -/
inductive OpName where
  | insert
  | remove
  | getcount
  | cycle
  | snapshot
  | ledwr
  | reset
deriving DecidableEq, Repr

namespace Config

/-! The parameters of 00_scope.md R7. Their values are the spec's, unchecked against the repository
(93_implementation_defined.md I8; log entry 12, DESIGN CHOICE, unsafe). -/

/-- Width of every data byte. -/
abbrev BYTE_W : Nat := 8
/-- RingBuffer capacity. -/
abbrev C : Nat := 255
/-- Width of `count`. -/
abbrev CNT_W : Nat := 8
/-- Width of `head` and `tail`. -/
abbrev IDX_W : Nat := 8
/-- FrameWindow length in slots. -/
abbrev W : Nat := 10
/-- Drain threshold. -/
abbrev T : Nat := 10
/-- Most removals in one drain cycle. -/
abbrev B : Nat := 10
/-- First marker byte. -/
abbrev MK0 : Byte := 0xFF
/-- Second marker byte. -/
abbrev MK1 : Byte := 0xFE
/-- Payload length in bytes. -/
abbrev P : Nat := 8
/-- Report length in bytes. -/
abbrev RLEN : Nat := 8
/-- The Num Lock bit of `ledBits`. -/
abbrev NUM_MASK : Byte := 0x01
/-- The Caps Lock bit of `ledBits`. -/
abbrev CAPS_MASK : Byte := 0x02
/-- The Scroll Lock bit of `ledBits`. -/
abbrev SCROLL_MASK : Byte := 0x04
/-- The one accepted length of an LED-state write. -/
abbrev LED_LEN_OK : BitVec 4 := 1
/-- The window's content at the start of every drain (92_eei_decisions.md D4). -/
abbrev WIN_INIT : Vector Byte W := Vector.replicate W 0x00

/-- What an agent's response signal shows in a clock that made no response on its port, by the number of
clocks passed. A FREE VALUE: 30_encoding.md R79 states none (log entry 15). -/
opaque undriven : Agent → Nat → BitVec 64

end Config

/-- The parameters as arguments, as 00_scope.md R7 lists them: what the constraints of R8 are about.
WIN_INIT is a list of slots. -/
structure Params where
  byteW : Nat
  c : Nat
  cntW : Nat
  idxW : Nat
  w : Nat
  t : Nat
  b : Nat
  mk0 : Nat
  mk1 : Nat
  p : Nat
  rlen : Nat
  winInit : List Nat
deriving DecidableEq, Repr

/-- The values this model runs with: 00_scope.md R7's default column. -/
def Config.params : Params where
  byteW := Config.BYTE_W
  c := Config.C
  cntW := Config.CNT_W
  idxW := Config.IDX_W
  w := Config.W
  t := Config.T
  b := Config.B
  mk0 := Config.MK0.toNat
  mk1 := Config.MK1.toNat
  p := Config.P
  rlen := Config.RLEN
  winInit := Config.WIN_INIT.toList.map BitVec.toNat

/-- The identity string of the block (00_scope.md R2). -/
def Config.identity : String := "SHB-C255-W10-MFFFE-R8"

/-- The one agent that may issue each operation (30_encoding.md R73, R75; 60_exceptions.md R185). -/
def OpName.owner : OpName → Agent
  | .insert => .producer
  | .remove => .consumer
  | .getcount => .consumer
  | .cycle => .consumer
  | .snapshot => .consumer
  | .ledwr => .host
  | .reset => .resetSource

end Sys2Proof
end

