-- ==== Sys2Proof/Syntax.lean ====
section
/-! DEFINITION. The operations of the block, one constructor per row of spec/opcode_table.json
(30_encoding.md R73). The operands are the fields of the command word (30_encoding.md R71, R72). -/

namespace Sys2Proof

/-- One operation with its operands. The internal step DSTEP has no encoding (30_encoding.md R78) and
is no constructor: it is `Sys2Proof.Machine.dstep`. -/
inductive Instr where
  /-- Store one byte (40_ringbuffer.md R100). -/
  | insert (d : Byte)
  /-- Remove the oldest byte (40_ringbuffer.md R101). -/
  | remove
  /-- Read `count` (40_ringbuffer.md R102). -/
  | getcount
  /-- Start one frame-extraction cycle (41_frame_extractor.md R130). -/
  | cycle
  /-- Hand the report to the transport (42_report_indicator.md R150). -/
  | snapshot
  /-- Host write of the LED state: length code and payload byte (42_report_indicator.md R156). -/
  | ledwr (len : BitVec 4) (v : Byte)
  /-- Full reset (70_reset_and_hazards.md R200). -/
  | reset
deriving DecidableEq, Repr

/-- The operation an instruction is, without its operands. -/
def Instr.opName : Instr → OpName
  | .insert _ => .insert
  | .remove => .remove
  | .getcount => .getcount
  | .cycle => .cycle
  | .snapshot => .snapshot
  | .ledwr _ _ => .ledwr
  | .reset => .reset

/-- The agent that may issue an instruction (30_encoding.md R75). -/
def Instr.owner (i : Instr) : Agent := i.opName.owner

end Sys2Proof
end

