-- ==== Sys2Proof/WellFormed.lean ====
section
/-! DEFINITION. The checks on terms. The operands of `Instr` are fields of exactly the encoding's
widths, so a term of `Instr` alone has no ill-formed value; what can be ill-formed is an issue (the
wrong agent for the operation, 30_encoding.md R75) and a set of parameters (00_scope.md R8). -/

namespace Sys2Proof

/-- An operation presented by an agent is well formed when the agent owns the operation
(30_encoding.md R75, 60_exceptions.md R185). -/
def Instr.wellIssued (a : Agent) (i : Instr) : Bool := decide (a = i.owner)

/-- 1 <= C <= 2^CNT_W - 1 (00_scope.md R8). -/
def Params.capacityOk (p : Params) : Bool := decide (1 ≤ p.c ∧ p.c ≤ 2 ^ p.cntW - 1)

/-- W = 2 + P and RLEN = P (00_scope.md R8). -/
def Params.windowOk (p : Params) : Bool := decide (p.w = 2 + p.p ∧ p.rlen = p.p)

/-- B = W (00_scope.md R8). -/
def Params.batchOk (p : Params) : Bool := decide (p.b = p.w)

/-- B <= T, so that a drain never finds the buffer empty, and T <= C, so that a drain can happen
(00_scope.md R8). -/
def Params.thresholdOk (p : Params) : Bool := decide (p.b ≤ p.t ∧ p.t ≤ p.c)

/-- MK0, MK1 and every WIN_INIT slot fit in a byte, and WIN_INIT has W slots (00_scope.md R7, R8). -/
def Params.bytesOk (p : Params) : Bool :=
  decide (p.mk0 < 2 ^ p.byteW ∧ p.mk1 < 2 ^ p.byteW ∧ p.winInit.length = p.w) &&
    p.winInit.all fun x => decide (x < 2 ^ p.byteW)

/-- All constraints of 00_scope.md R8. -/
def Params.wellFormed (p : Params) : Bool :=
  p.capacityOk && p.windowOk && p.batchOk && p.thresholdOk && p.bytesOk

end Sys2Proof
end

