-- ==== Sys2Proof/Decode.lean ====
section
/-! DEFINITION. The decoder of 30_encoding.md R83, total on every agent and word, rejecting by name,
and the encoder of the words of 30_encoding.md R73. -/

namespace Sys2Proof

/-- Why a command word is refused (30_encoding.md R74, R75; 60_exceptions.md R173). -/
inductive RefuseReason where
  /-- op = 0x0 or op >= 0x8. -/
  | reservedOpcode
  /-- The issuing agent is not the operation's agent. -/
  | wrongAgent
  /-- A field that must be 0 is not 0. -/
  | nonzeroField
deriving DecidableEq, Repr

/-- The codes of 60_exceptions.md R173. -/
def RefuseReason.code : RefuseReason → Nat
  | .reservedOpcode => 1
  | .wrongAgent => 2
  | .nonzeroField => 3

/-- Bits [15:12] (30_encoding.md R71). -/
def opField (w : Word) : BitVec 4 := w.extractLsb' 12 4

/-- Bits [11:8] (30_encoding.md R71). -/
def auxField (w : Word) : BitVec 4 := w.extractLsb' 8 4

/-- Bits [7:0] (30_encoding.md R71). -/
def dataField (w : Word) : Byte := w.extractLsb' 0 8

/-- The word with the given three fields (30_encoding.md R71). -/
def packWord (op aux : BitVec 4) (data : Byte) : Word := op ++ aux ++ data

/-- The op column of 30_encoding.md R73. -/
def OpName.opcode : OpName → BitVec 4
  | .insert => 0x1
  | .remove => 0x2
  | .getcount => 0x3
  | .cycle => 0x4
  | .snapshot => 0x5
  | .ledwr => 0x6
  | .reset => 0x7

/-- The operation an op value selects; none for the reserved values 0x0 and 0x8 to 0xF
(30_encoding.md R73, R74). -/
def opNameOf (op : BitVec 4) : Option OpName :=
  match op.toNat with
  | 1 => some .insert
  | 2 => some .remove
  | 3 => some .getcount
  | 4 => some .cycle
  | 5 => some .snapshot
  | 6 => some .ledwr
  | 7 => some .reset
  | _ => none

/-- The match and mask of an operation's row (30_encoding.md R73, spec/opcode_table.json). -/
def OpName.row : OpName → Word × Word
  | .insert => (0x1000, 0xFF00)
  | .remove => (0x2000, 0xFFFF)
  | .getcount => (0x3000, 0xFFFF)
  | .cycle => (0x4000, 0xFFFF)
  | .snapshot => (0x5000, 0xFFFF)
  | .ledwr => (0x6000, 0xF000)
  | .reset => (0x7000, 0xFFFF)

/-- Operations whose aux field must be 0: all but LEDWR (30_encoding.md R74, 90_conflicts.md C10). -/
def OpName.auxMustBeZero : OpName → Bool
  | .ledwr => false
  | _ => true

/-- Operations whose data field must be 0: all but INSERT and LEDWR (30_encoding.md R74). -/
def OpName.dataMustBeZero : OpName → Bool
  | .insert => false
  | .ledwr => false
  | _ => true

/-- A must-be-zero field of the word is not zero (30_encoding.md R74). -/
def OpName.fieldError (m : OpName) (w : Word) : Bool :=
  (m.auxMustBeZero && decide (auxField w ≠ 0)) || (m.dataMustBeZero && decide (dataField w ≠ 0))

/-- The operation with its operands taken from the word (30_encoding.md R72). -/
def OpName.operandsOf (m : OpName) (w : Word) : Instr :=
  match m with
  | .insert => .insert (dataField w)
  | .remove => .remove
  | .getcount => .getcount
  | .cycle => .cycle
  | .snapshot => .snapshot
  | .ledwr => .ledwr (auxField w) (dataField w)
  | .reset => .reset

/-- The decoder of 30_encoding.md R83: the first check that applies decides (60_exceptions.md R176). -/
def decode (a : Agent) (w : Word) : Except RefuseReason Instr :=
  match opNameOf (opField w) with
  | none => .error .reservedOpcode
  | some m =>
    if a ≠ m.owner then .error .wrongAgent
    else if m.fieldError w then .error .nonzeroField
    else .ok (m.operandsOf w)

/-- The encoder: the word of an operation, from the word patterns of 30_encoding.md R73. -/
def encode : Instr → Word
  | .insert d => packWord 0x1 0x0 d
  | .remove => packWord 0x2 0x0 0x00
  | .getcount => packWord 0x3 0x0 0x00
  | .cycle => packWord 0x4 0x0 0x00
  | .snapshot => packWord 0x5 0x0 0x00
  | .ledwr len v => packWord 0x6 len v
  | .reset => packWord 0x7 0x0 0x00

/-- The agent whose operation a word's op field selects. A word with a reserved op has none; the
consumer stands in, and every agent's decoding refuses such a word (30_encoding.md R83, log entry 19). -/
def issuerOf (w : Word) : Agent :=
  match opNameOf (opField w) with
  | none => .consumer
  | some m => m.owner

/-- The instruction the decoder reads from the bits of a table row: one 16-bit word, issued by the
agent that owns its operation (log entry 19). -/
def decodeTableWord (nbits w : Nat) : Option Instr :=
  if nbits ≤ 16 ∧ w < 2 ^ nbits then
    match decode (issuerOf (BitVec.ofNat 16 w)) (BitVec.ofNat 16 w) with
    | .ok i => some i
    | .error _ => none
  else none

end Sys2Proof
end

