-- ==== Sys2Proof/Machine/State.lean ====
section
/-! DEFINITION. The machine's state as plain data: the complete tuple of 10_state.md R41, and the
model's own `schedule` (the environment's inputs, log entry 1). The faults and refusals of a step. -/

namespace Sys2Proof.Machine

/-- The RingBuffer storage (10_state.md R22) as a list of (slot, byte) pairs in canonical form: slots
strictly rising, none at or above C, none holding the byte an unlisted slot reads as. -/
abbrev Memory := List Host.Cell

/-- What a slot reads as when it is not listed: 0x00. The spec leaves the content after reset
unspecified and allows this one (70_reset_and_hazards.md R201). DESIGN CHOICE, unsafe: log entry 8. -/
def Memory.blank : Byte := 0x00

/-- The canonical form of a list whose slots are all at or above `lo`. -/
def Memory.wfFrom : Nat → Memory → Bool
  | _, [] => true
  | lo, (a, b) :: m =>
    decide (lo ≤ a) && decide (a < Config.C) && decide (b ≠ Memory.blank) && Memory.wfFrom (a + 1) m

/-- The canonical form of the storage. -/
def Memory.wf (m : Memory) : Bool := Memory.wfFrom 0 m

/-- The FrameWindow's ten slots (10_state.md R29). -/
abbrev Window := Vector Byte Config.W

/-- The report's eight bytes (10_state.md R32): modifier, reserved, keycode[0..5]. -/
abbrev Report := Vector Byte Config.RLEN

/-- The consumer sequencer (10_state.md R30). -/
inductive Phase where
  /-- No drain is in progress; the consumer may issue a command. -/
  | ready
  /-- A drain is in progress; the consumer's only enabled step is DSTEP. -/
  | drain
deriving DecidableEq, Repr

/-- The kinds of model fault: there is one (60_exceptions.md R171). -/
inductive FaultKind where
  | removeEmpty
deriving DecidableEq, Repr

/-- The code of a fault kind (60_exceptions.md R171). -/
def FaultKind.code : FaultKind → Nat
  | .removeEmpty => 1

/-- A set fault mark: the kind and the information recorded (10_state.md R40, 60_exceptions.md R171). -/
structure FaultMark where
  kind : FaultKind
  word : Word
  agent : Agent
  head : BitVec 8
  tail : BitVec 8
deriving DecidableEq, Repr

/-- A set refusal mark, for the first refused word (10_state.md R40). -/
structure RefusalMark where
  reason : RefuseReason
  agent : Agent
  word : Word
deriving DecidableEq, Repr

/-- The value of a response, in the width 30_encoding.md R76 gives it. -/
inductive Response where
  /-- INSERT and LEDWR: one bit. -/
  | bit (b : BitVec 1)
  /-- REMOVE and GETCOUNT: eight bits. -/
  | byte (v : Byte)
  /-- SNAPSHOT: 64 bits, in the byte order of 20_memory.md R52. -/
  | wide (v : BitVec 64)
deriving DecidableEq, Repr

/-- How a cycle ended (41_frame_extractor.md R130, R131). -/
inductive CycleOutcome where
  | idle
  | noMatch
  | matched (k : BitVec 4)
deriving DecidableEq, Repr

/-- The events of the observation trace (10_state.md R39). -/
inductive Event where
  | resp (a : Agent) (op : OpName) (v : Response)
  | drop (d : Byte)
  | cycle (o : CycleOutcome)
  | sent (r : Report)
  | ledReject (len : BitVec 4)
  | reset
deriving DecidableEq, Repr

/-- One turn of the schedule: which agent moves next, and with what (20_memory.md R58, 30_encoding.md
R82). The model's own (log entry 1). -/
inductive Turn where
  /-- An agent presents a command word (30_encoding.md R70). -/
  | command (a : Agent) (w : Word)
  /-- `C: DSTEP`, the consumer's internal step (30_encoding.md R78). -/
  | dstep
  /-- `C: DSTEP` repeated while phase = Drain, with no other agent's step between: the second half of
  the pseudo-instruction `C: DRAIN` (30_encoding.md R81, log entry 16). -/
  | drain
deriving DecidableEq, Repr

/-- The complete state (10_state.md R41), and the model's own `schedule`. -/
structure State where
  /-- 10_state.md R22. -/
  storage : Memory
  /-- 10_state.md R23. -/
  head : BitVec 8
  /-- 10_state.md R24. -/
  tail : BitVec 8
  /-- 10_state.md R25. -/
  count : BitVec 8
  /-- 10_state.md R30. -/
  phase : Phase
  /-- 10_state.md R31. -/
  k : BitVec 4
  /-- 10_state.md R29; `none` is its "no value" (log entry 10). -/
  win : Option Window
  /-- 10_state.md R32. -/
  report : Report
  /-- 10_state.md R34. -/
  ledBits : Byte
  /-- 10_state.md R35, the spec's ind_out. -/
  indOut : Bool
  /-- 10_state.md R40. -/
  faultMark : Option FaultMark
  /-- 10_state.md R40. -/
  refusalMark : Option RefusalMark
  /-- 10_state.md R39. -/
  trace : List Event
  /-- The model's own: the inputs still to come, in step order (log entry 1). -/
  schedule : List Turn
deriving DecidableEq, Repr

/-- Why the machine stops with a fault. -/
inductive Fault where
  /-- REMOVE with count = 0, the spec's one fault, REMOVE_EMPTY (40_ringbuffer.md R101, 60_exceptions.md
  R171). `left` is the faulted state: the state before the step with the fault mark set. Safe: the
  spec itself stops there. -/
  | removeEmpty (left : State)
  /-- Any step of a state whose fault mark is set: no agent takes another step (60_exceptions.md R171,
  93_implementation_defined.md I15). Safe: the spec itself stops there. -/
  | quiescent (mark : FaultMark)
  /-- An INSERT, REMOVE or DSTEP whose index is C or above, which is never formed (10_state.md R37; 93_implementation_defined.md
  I13, log entry 9). Safe: no reachable state raises it. -/
  | noSuchSlot (index : BitVec 8)
  /-- A DSTEP while the window holds no value, which no run reaches (10_state.md R29, log entry 10).
  Safe: no reachable state raises it. -/
  | noWindow
deriving DecidableEq, Repr

/-- Why the machine gives a step no meaning. -/
inductive Refusal where
  /-- An instruction the model has not reached, raised by `exec`'s arm alone. Safe. No arm raises it. -/
  | notModelled (mnemonic : String)
  /-- The schedule has `C: DSTEP` next while phase = Ready: the listing is invalid (30_encoding.md R82,
  log entry 4). Raised by the schedule, never by an operation. Safe: such a line could not be issued. -/
  | dstepNotEnabled
deriving DecidableEq, Repr

/-- The outcome of a step of this machine. -/
abbrev Result := Host.Outcome State Fault Refusal

/-- The idle report, "no keys pressed": eight bytes 0x00 (10_state.md R32, 41_frame_extractor.md R133). -/
def idleReport : Report := Vector.replicate Config.RLEN 0x00

/-- The reset state of 70_reset_and_hazards.md R200 with an empty trace and no mark, which every run
starts in (R203); nothing is presented to the block yet. -/
def State.reset : State where
  storage := []
  head := 0
  tail := 0
  count := 0
  phase := .ready
  k := 0
  win := none
  report := idleReport
  ledBits := 0x00
  indOut := false
  faultMark := none
  refusalMark := none
  trace := []
  schedule := []

end Sys2Proof.Machine
end

