-- ==== Sys2Proof/Machine/Flags.lean ====
section
/-! DEFINITION. The status values the block computes and never stores (10_state.md R28), and the
indicator function (42_report_indicator.md R157). The block has no flag (10_state.md R28). -/

namespace Sys2Proof.Machine

/-- `empty = (count = 0)` (10_state.md R28). -/
def State.empty (s : State) : Bool := decide (s.count.toNat = 0)

/-- `full = (count = C)` (10_state.md R28). -/
def State.full (s : State) : Bool := decide (s.count.toNat = Config.C)

/-- `avail = (count >= T)` (10_state.md R28). -/
def State.avail (s : State) : Bool := decide (Config.T ≤ s.count.toNat)

/-- `indicatorOf(v)`: the Caps Lock bit alone (42_report_indicator.md R157). -/
def indicatorOf (v : Byte) : Bool := decide (v &&& Config.CAPS_MASK ≠ 0)

/-- The Num Lock bit of an LED byte (10_state.md R34). -/
def numLockOf (v : Byte) : Bool := decide (v &&& Config.NUM_MASK ≠ 0)

/-- The Scroll Lock bit of an LED byte (10_state.md R34). -/
def scrollLockOf (v : Byte) : Bool := decide (v &&& Config.SCROLL_MASK ≠ 0)

end Sys2Proof.Machine
end

