-- ==== Sys2Proof/Machine/Operands.lean ====
section
/-! DEFINITION. Operand forms: the index operands `head` and `tail` and their advance, the length code
of LEDWR, the byte order of the report, the FrameWindow's shift, marker test and payload
(30_encoding.md R72, R77; 20_memory.md R52, R68; 41_frame_extractor.md R131, R132). -/

namespace Sys2Proof.Machine

/-- The next storage index: `(i + 1) mod C` (20_memory.md R68, 40_ringbuffer.md R103). -/
def nextIndex (i : BitVec 8) : BitVec 8 := BitVec.ofNat 8 ((i.toNat + 1) % Config.C)

/-- An index the storage has: 0..C-1 (10_state.md R37). -/
def isSlot (i : BitVec 8) : Bool := decide (i.toNat < Config.C)

/-- The length code LEDWR accepts (30_encoding.md R77, 42_report_indicator.md R156). -/
def lengthAccepted (len : BitVec 4) : Bool := decide (len = Config.LED_LEN_OK)

/-- `zext_64`: the zero extension of a byte on the 64-bit response (00_scope.md R9, 30_encoding.md R79). -/
def zext64 (v : Byte) : BitVec 64 := v.setWidth 64

/-- The 64-bit form of the report: report[i] at bits [8i+7:8i] (20_memory.md R52, 92_eei_decisions.md D21). -/
def reportBus (r : Report) : BitVec 64 :=
  r[7] ++ r[6] ++ r[5] ++ r[4] ++ r[3] ++ r[2] ++ r[1] ++ r[0]

/-- report[0] (10_state.md R32). -/
def modifierOf (r : Report) : Byte := r[0]

/-- report[1]; the block copies it and does not force it to zero (10_state.md R33). -/
def reservedOf (r : Report) : Byte := r[1]

/-- keycode[j] = report[2+j] (10_state.md R32). -/
def keycodeOf (r : Report) (j : Fin 6) : Byte := r[2 + j.val]'(by have := j.isLt; show 2 + j.val < 8; omega)

/-- `win[1..W-1] ++ [b]`: the oldest byte leaves at slot 0 and `b` enters at slot W-1
(41_frame_extractor.md R131). -/
def shiftWindow (w : Window) (b : Byte) : Window :=
  Vector.ofFn fun i => if h : i.val + 1 < Config.W then w[i.val + 1] else b

/-- The marker test: slots 0 and 1 only (41_frame_extractor.md R132, R136). -/
def isMarker (w : Window) : Bool := decide (w[0] = Config.MK0 ∧ w[1] = Config.MK1)

/-- win[2..9], the eight payload bytes, copied as they are (41_frame_extractor.md R132, R140). -/
def payloadOf (w : Window) : Report :=
  Vector.ofFn fun i => w[i.val + 2]'(by have : i.val < 8 := i.isLt; show i.val + 2 < 10; omega)

end Sys2Proof.Machine
end

