-- ==== Sys2Proof/Machine/Ops.lean ====
section
/-! DEFINITION. The named operations every meaning is built from: the storage's read and write
(00_scope.md R11), the RingBuffer's two primitives (40_ringbuffer.md R100, R101), the trace
(10_state.md R39), raising the fault and recording a refusal (60_exceptions.md R171, R173), and the
updates of the window, the report, the LED state and the reset. The block takes no exception and has
no return from one (60_exceptions.md R170, R179): raising REMOVE_EMPTY is the nearest it has. -/

namespace Sys2Proof.Machine

/-! ## Storage -/

/-- The byte of slot `i` (00_scope.md R11). -/
def Memory.read : Memory → Nat → Byte
  | [], _ => Memory.blank
  | (a, b) :: m, i => if a = i then b else Memory.read m i

/-- The storage with byte `v` in slot `i`, in canonical form (00_scope.md R11). -/
def Memory.write : Memory → Nat → Byte → Memory
  | [], i, v => if v = Memory.blank then [] else [(i, v)]
  | (a, b) :: m, i, v =>
    if i < a then (if v = Memory.blank then (a, b) :: m else (i, v) :: (a, b) :: m)
    else if i = a then (if v = Memory.blank then m else (i, v) :: m)
    else (a, b) :: Memory.write m i v

/-- `MemRead(i, 1)` for 0 <= i < C (00_scope.md R11); an index that does not exist faults. -/
def memRead (s : State) (i : BitVec 8) : Except Fault Byte :=
  if isSlot i then .ok (s.storage.read i.toNat) else .error (.noSuchSlot i)

/-- The storage replaced. -/
def State.setStorage (s : State) (m : Memory) : State := { s with storage := m }

/-- `MemWrite(i, 1, v)` for 0 <= i < C (00_scope.md R11); an index that does not exist faults. -/
def memWrite (s : State) (i : BitVec 8) (v : Byte) : Except Fault State :=
  if isSlot i then .ok (s.setStorage (s.storage.write i.toNat v)) else .error (.noSuchSlot i)

/-- The queue Q of 10_state.md R27: the buffered bytes, oldest first. -/
def State.queue (s : State) : List Byte :=
  (List.range s.count.toNat).map fun i => s.storage.read ((s.head.toNat + i) % Config.C)

/-! ## Turns, responses and events -/

/-- The turn at the head of the schedule is used up (log entry 1). -/
def State.spendTurn (s : State) : State := { s with schedule := s.schedule.tail }

/-- `emit E` (00_scope.md R12, 10_state.md R39). -/
def State.emit (s : State) (e : Event) : State := { s with trace := s.trace ++ [e] }

/-- `resp <- v`: the operation's response to the agent that owns it, recorded as `Resp`
(00_scope.md R12, 30_encoding.md R76). -/
def State.respond (s : State) (op : OpName) (v : Response) : State := s.emit (.resp op.owner op v)

/-! ## Fault, refusal -/

/-- The fault mark is set; nothing else changes (60_exceptions.md R171). -/
def State.markFault (s : State) (m : FaultMark) : State := { s with faultMark := some m }

/-- `raise Fault(REMOVE_EMPTY, ...)`: the fault outcome with the mark recorded, in the state before
the step (00_scope.md R12, 60_exceptions.md R171, log entry 5). -/
def raiseRemoveEmpty (s : State) : Fault :=
  .removeEmpty (s.markFault
    { kind := .removeEmpty, word := encode .remove, agent := .consumer, head := s.head, tail := s.tail })

/-- The refusal mark keeps the first refused word for the rest of the run (10_state.md R40,
60_exceptions.md R173). -/
def State.markRefusal (s : State) (m : RefusalMark) : State :=
  { s with refusalMark := match s.refusalMark with
      | none => some m
      | some first => some first }

/-- `refuse(reason)`: no block state changes, the mark is set, the turn is used up and the run goes on
(30_encoding.md R74, 92_eei_decisions.md D13, log entry 7). -/
def refuseWord (s : State) (reason : RefuseReason) (a : Agent) (w : Word) : State :=
  (s.markRefusal { reason := reason, agent := a, word := w }).spendTurn

/-! ## RingBuffer -/

/-- `tail` and `count` after a stored INSERT (40_ringbuffer.md R100). -/
def State.advanceTail (s : State) : State :=
  { s with tail := nextIndex s.tail, count := s.count + 1 }

/-- `head` and `count` after a removal (40_ringbuffer.md R101). -/
def State.advanceHead (s : State) : State :=
  { s with head := nextIndex s.head, count := s.count - 1 }

/-- The storing branch of INSERT (40_ringbuffer.md R100). -/
def rbPush (s : State) (d : Byte) : Except Fault State :=
  match memWrite s s.tail d with
  | .error f => .error f
  | .ok s' => .ok s'.advanceTail

/-- `rbPop()` (40_ringbuffer.md R101), which REMOVE and DSTEP share. -/
def rbPop (s : State) : Except Fault (Byte × State) :=
  if s.empty then .error (raiseRemoveEmpty s)
  else
    match memRead s s.head with
    | .error f => .error f
    | .ok b => .ok (b, s.advanceHead)

/-! ## FrameExtractor and ReportState -/

/-- A drain starts with a fresh window (41_frame_extractor.md R130). The window is an argument: the
spec's default is `Config.WIN_INIT` (00_scope.md R7). -/
def State.startDrain (s : State) (init : Window) : State :=
  { s with win := some init, k := 0, phase := .drain }

/-- One byte has entered the window (41_frame_extractor.md R131). -/
def State.shiftIn (s : State) (w : Window) : State := { s with win := some w, k := s.k + 1 }

/-- The cycle ends: phase is Ready and the window is not kept (41_frame_extractor.md R131, 10_state.md
R29, log entries 10 and 11). -/
def State.endDrain (s : State) : State := { s with phase := .ready, win := none }

/-- All eight report bytes in one step (20_memory.md R57). -/
def State.setReport (s : State) (r : Report) : State := { s with report := r }

/-- The indicator output (10_state.md R35). -/
def State.setIndicator (s : State) (b : Bool) : State := { s with indOut := b }

/-- All eight LED bits, reserved bits included (10_state.md R34). -/
def State.setLed (s : State) (v : Byte) : State := { s with ledBits := v }

/-- `idleFallback()` (41_frame_extractor.md R133); `ledBits` is not changed. -/
def State.idleFallback (s : State) : State := (s.setReport idleReport).setIndicator false

/-- The assignments of RESET (70_reset_and_hazards.md R200). Storage, the two marks, the trace and the
schedule are not written (log entry 17). -/
def State.clear (s : State) : State :=
  { s with
    head := 0, tail := 0, count := 0
    phase := .ready, k := 0, win := none
    report := idleReport, ledBits := 0x00, indOut := false }

end Sys2Proof.Machine
end

