-- ==== Sys2Proof/Machine/Drain.lean ====
section
/-! DEFINITION. The drain micro-step DSTEP, internal to the consumer (41_frame_extractor.md R131), and
the hold of consumer commands while a drain is in progress (60_exceptions.md R174, R183). -/

namespace Sys2Proof.Machine

/-- What DSTEP does once the new byte is in the window: a match writes the report and ends the cycle;
the B-th removal without a match ends it with the report as it was (41_frame_extractor.md R131, R132). -/
def testWindow (s : State) (w : Window) : State :=
  if isMarker w then ((s.setReport (payloadOf w)).endDrain).emit (.cycle (.matched s.k))
  else if s.k.toNat = Config.B then s.endDrain.emit (.cycle .noMatch)
  else s

/-- DSTEP (41_frame_extractor.md R131): remove one byte, shift it into the window, test for the marker.
It uses up no turn of the schedule by itself. -/
def dstep (s : State) : Result :=
  match rbPop s with
  | .error f => .fault f
  | .ok (b, s') =>
    match s'.win with
    | none => .fault .noWindow
    | some w => .next (testWindow (s'.shiftIn (shiftWindow w b)) (shiftWindow w b))

/-- HOLD_DRAIN_BUSY (60_exceptions.md R174, R183): the consumer's command stays where it is, and the
consumer takes the one step it has, a DSTEP (30_encoding.md R79, log entry 3). -/
def holdDrainBusy (s : State) : Result := dstep s

/-- A consumer command: held while phase = Drain, otherwise it has its effect (60_exceptions.md R183). -/
def consumerCommand (s : State) (body : State → Result) : Result :=
  match s.phase with
  | .drain => holdDrainBusy s
  | .ready => body s

end Sys2Proof.Machine
end

