-- ==== Sys2Proof/Machine/FrameExtractor.lean ====
section
/-! DEFINITION. CYCLE, one frame-extraction cycle (41_frame_extractor.md R130). -/

namespace Sys2Proof.Machine

/-- CYCLE's effect while phase = Ready: a drain starts when count >= T, else the idle fallback
(41_frame_extractor.md R130, R133). It has no response (30_encoding.md R76). -/
def cycleBody (s : State) : Result :=
  if s.avail then .next ((s.startDrain Config.WIN_INIT).spendTurn)
  else .next ((s.idleFallback.emit (.cycle .idle)).spendTurn)

/-- CYCLE (41_frame_extractor.md R130). -/
def execCycle (s : State) : Result := consumerCommand s cycleBody

end Sys2Proof.Machine
end

