-- ==== Sys2Proof/Machine/ReportState.lean ====
section
/-! DEFINITION. SNAPSHOT and LEDWR, the two operations that reach ReportState from outside the data
path (42_report_indicator.md R150, R156). -/

namespace Sys2Proof.Machine

/-- SNAPSHOT's effect while phase = Ready: one atomic read of the report (42_report_indicator.md R150). -/
def snapshotBody (s : State) : Result :=
  .next (((s.respond .snapshot (.wide (reportBus s.report))).emit (.sent s.report)).spendTurn)

/-- SNAPSHOT (42_report_indicator.md R150). -/
def execSnapshot (s : State) : Result := consumerCommand s snapshotBody

/-- LEDWR (42_report_indicator.md R156): accepted at length 1 only; never held (60_exceptions.md R181). -/
def execLedwr (len : BitVec 4) (v : Byte) (s : State) : Result :=
  if lengthAccepted len then
    .next ((((s.setLed v).setIndicator (indicatorOf v)).respond .ledwr (.bit 1#1)).spendTurn)
  else
    .next (((s.respond .ledwr (.bit 0#1)).emit (.ledReject len)).spendTurn)

end Sys2Proof.Machine
end

