-- ==== Sys2Proof/Machine/ResetOp.lean ====
section
/-! DEFINITION. RESET, at power-on and when the watchdog fires (70_reset_and_hazards.md R200). -/

namespace Sys2Proof.Machine

/-- RESET (70_reset_and_hazards.md R200): enabled in every state; it has no response (30_encoding.md R76). -/
def execReset (s : State) : Result := .next ((s.clear.emit .reset).spendTurn)

end Sys2Proof.Machine
end

