-- ==== Sys2Proof/Machine/RingBuffer.lean ====
section
/-! DEFINITION. The RingBuffer's three operations: INSERT, REMOVE, GETCOUNT (40_ringbuffer.md). -/

namespace Sys2Proof.Machine

/-- INSERT (40_ringbuffer.md R100): drop the byte when full, else store it at `tail`. Never held. -/
def execInsert (d : Byte) (s : State) : Result :=
  if s.full then
    .next (((s.respond .insert (.bit 0#1)).emit (.drop d)).spendTurn)
  else
    match rbPush s d with
    | .error f => .fault f
    | .ok s' => .next ((s'.respond .insert (.bit 1#1)).spendTurn)

/-- REMOVE's effect while phase = Ready (40_ringbuffer.md R101). -/
def removeBody (s : State) : Result :=
  match rbPop s with
  | .error f => .fault f
  | .ok (b, s') => .next ((s'.respond .remove (.byte b)).spendTurn)

/-- REMOVE (40_ringbuffer.md R101). -/
def execRemove (s : State) : Result := consumerCommand s removeBody

/-- GETCOUNT's effect while phase = Ready: one atomic read of `count` (40_ringbuffer.md R102, 20_memory.md
R56). -/
def getcountBody (s : State) : Result :=
  .next ((s.respond .getcount (.byte s.count)).spendTurn)

/-- GETCOUNT (40_ringbuffer.md R102). -/
def execGetcount (s : State) : Result := consumerCommand s getcountBody

end Sys2Proof.Machine
end

