-- ==== Sys2Proof/Machine/Dispatch.lean ====
section
/-! DEFINITION. The meaning of every operation, one arm per constructor. -/

namespace Sys2Proof.Machine

def exec (i : Instr) (s : State) : Host.Outcome State Fault Refusal :=
  match i with
  | .insert d => Sys2Proof.Machine.execInsert d s
  | .remove => Sys2Proof.Machine.execRemove s
  | .getcount => Sys2Proof.Machine.execGetcount s
  | .cycle => Sys2Proof.Machine.execCycle s
  | .snapshot => Sys2Proof.Machine.execSnapshot s
  | .ledwr len v => Sys2Proof.Machine.execLedwr len v s
  | .reset => Sys2Proof.Machine.execReset s

end Sys2Proof.Machine
end

