-- ==== Sys2Proof/Machine/Schedule.lean ====
section
/-! DEFINITION. One step of the whole block: the turn at the head of the schedule is taken
(20_memory.md R50, R58; 60_exceptions.md R180 to R183; log entries 1 to 4). -/

namespace Sys2Proof.Machine

/-- A word presented by an agent is held, not yet decoded, when the agent is the consumer and
phase = Drain (60_exceptions.md R183, 30_encoding.md R79, log entry 3). -/
def isHeld (s : State) (a : Agent) : Bool := decide (a = .consumer ∧ s.phase = .drain)

/-- An agent presents a command word: held, refused or executed (30_encoding.md R83, 60_exceptions.md
R173, R174). -/
def issue (s : State) (a : Agent) (w : Word) : Result :=
  if isHeld s a then holdDrainBusy s
  else
    match decode a w with
    | .error reason => .next (refuseWord s reason a w)
    | .ok i => exec i s

/-- The turn `C: DSTEP`: enabled while phase = Drain only (30_encoding.md R82, log entry 4). -/
def dstepTurn (s : State) : Result :=
  match s.phase with
  | .drain => dstep s.spendTurn
  | .ready => .refused .dstepNotEnabled

/-- The turn 'DSTEP repeated while phase = Drain': it stays until the cycle has ended (30_encoding.md
R81, log entry 16). -/
def drainTurn (s : State) : Result :=
  match s.phase with
  | .ready => .next s.spendTurn
  | .drain =>
    match dstep s with
    | .next s' => .next (if s'.phase = .ready then s'.spendTurn else s')
    | .fault f => .fault f
    | .refused r => .refused r

/-- No turn is left: a drain in progress goes on by itself, and otherwise nothing happens
(30_encoding.md R79, 60_exceptions.md R181, log entry 2). -/
def idleTurn (s : State) : Result :=
  match s.phase with
  | .drain => dstep s
  | .ready => .next s

/-- One step. No agent steps after a fault (60_exceptions.md R171). -/
def takeTurn (s : State) : Result :=
  match s.faultMark with
  | some m => .fault (.quiescent m)
  | none =>
    match s.schedule with
    | [] => idleTurn s
    | .command a w :: _ => issue s a w
    | .dstep :: _ => dstepTurn s
    | .drain :: _ => drainTurn s

/-- The schedule with one more turn in front of it. -/
def State.present (s : State) (t : Turn) : State := { s with schedule := t :: s.schedule }

end Sys2Proof.Machine
end

