-- ==== Sys2Proof/Machine/Step.lean ====
section
/-! DEFINITION. The step of the machine, and a state whose next step runs a given word. -/

namespace Sys2Proof.Machine

/-- One atomic step (20_memory.md R50). -/
def step (s : State) : Host.Outcome State Fault Refusal := takeTurn s

/-- `s` with the word presented next by the agent that owns its operation (log entries 1 and 19). The
block fetches nothing (10_state.md R21): presenting a word is all there is. -/
def State.withFetchWord (s : State) (_nbits w : Nat) : State :=
  s.present (.command (issuerOf (BitVec.ofNat 16 w)) (BitVec.ofNat 16 w))

end Sys2Proof.Machine
end

