-- ==== Sys2Proof/Machine/Listing.lean ====
section
/-! DEFINITION. Test listings: the lines of 30_encoding.md R80, the pseudo-instructions of R81 with
their expansions, and the consumer's main loop (60_exceptions.md R184) as a listing. A listing is read
as one schedule (R82). -/

namespace Sys2Proof.Machine

/-- One line of a listing (30_encoding.md R80, R81). Numbers are as written: `Line.wellFormed` checks
their ranges. -/
inductive Line where
  /-- `AGENT: MNEMONIC operands`. -/
  | op (a : Agent) (m : OpName) (operands : List Nat)
  /-- `C: DSTEP`. -/
  | dstep
  /-- `P: INSERTS d1, ..., dn`. -/
  | inserts (ds : List Nat)
  /-- `P: INSERTS d × n`. -/
  | insertsTimes (d n : Nat)
  /-- `P: FRAME b0, ..., b7`. -/
  | frame (bs : List Nat)
  /-- `C: DRAIN`. -/
  | drain
  /-- `C: DSTEP × n`. -/
  | dsteps (n : Nat)
  /-- `C: ITER r`: one main-loop iteration with transport readiness r. -/
  | iter (r : Bool)
  /-- `H: SETLED v`. -/
  | setled (v : Nat)
deriving DecidableEq, Repr

/-- A number that fits a byte (30_encoding.md R80). -/
def isByte (n : Nat) : Bool := decide (n < 256)

/-- The operand lists R80 gives each mnemonic: `INSERT d`, `LEDWR L, v`, none for every other. -/
def operandsOk : OpName → List Nat → Bool
  | .insert, [d] => isByte d
  | .insert, _ => false
  | .ledwr, [l, v] => decide (l < 16) && isByte v
  | .ledwr, _ => false
  | _, operands => operands.isEmpty

/-- A line with the operands R80 and R81 give it. Its agent is not checked here: a word of the wrong
agent is refused when it is issued (30_encoding.md R75). -/
def Line.wellFormed : Line → Bool
  | .op _ m operands => operandsOk m operands
  | .dstep => true
  | .inserts ds => ds.all isByte
  | .insertsTimes d _ => isByte d
  | .frame bs => decide (bs.length = Config.P) && bs.all isByte
  | .drain => true
  | .dsteps _ => true
  | .iter _ => true
  | .setled v => isByte v

/-- The operation with the given operands; a missing operand reads as 0 (a line that lacks one is not
well formed). -/
def instrWith (m : OpName) (operands : List Nat) : Instr :=
  match m with
  | .insert => .insert (BitVec.ofNat 8 (operands.getD 0 0))
  | .remove => .remove
  | .getcount => .getcount
  | .cycle => .cycle
  | .snapshot => .snapshot
  | .ledwr => .ledwr (BitVec.ofNat 4 (operands.getD 0 0)) (BitVec.ofNat 8 (operands.getD 1 0))
  | .reset => .reset

/-- The turn in which the owner of an operation presents its word. -/
def Turn.of (i : Instr) : Turn := .command i.owner (encode i)

/-- `P: INSERT d` for each byte in order (30_encoding.md R81). -/
def insertTurns (ds : List Nat) : List Turn := ds.map fun d => .of (.insert (BitVec.ofNat 8 d))

/-- `C: DRAIN` (30_encoding.md R81). -/
def drainTurns : List Turn := [.of .cycle, .drain]

/-- The turns a line stands for (30_encoding.md R80, R81). -/
def Line.assemble : Line → List Turn
  | .op a m operands => [.command a (encode (instrWith m operands))]
  | .dstep => [.dstep]
  | .inserts ds => insertTurns ds
  | .insertsTimes d n => insertTurns (List.replicate n d)
  | .frame bs => insertTurns (Config.MK0.toNat :: Config.MK1.toNat :: bs)
  | .drain => drainTurns
  | .dsteps n => List.replicate n .dstep
  | .iter r => drainTurns ++ (if r then [.of .snapshot] else [])
  | .setled v => [.of (.ledwr Config.LED_LEN_OK (BitVec.ofNat 8 v))]

/-- The schedule of a listing: the line order is the step order (30_encoding.md R80, R82). -/
def assemble (lines : List Line) : List Turn := lines.flatMap Line.assemble

/-- The consumer's main loop, one iteration for each answer of the transport (60_exceptions.md R184,
70_reset_and_hazards.md R202). The readiness is a free input of each iteration. -/
def mainLoop (readiness : List Bool) : List Line := readiness.map .iter

end Sys2Proof.Machine
end

