-- ==== Sys2Proof/Machine/Ports.lean ====
section
/-! DEFINITION. The signal-level view of 30_encoding.md R79: the input signals of one clock, what one
clock does to the block, and the output signals. Requests of one clock act as one of their serial
orders (20_memory.md R63, R69; 60_exceptions.md R177; log entries 15, 18 and 21). -/

namespace Sys2Proof.Machine

/-- The input signals of 30_encoding.md R79 in one clock. -/
structure PortInputs where
  pReq : Bool
  pData : Byte
  cReq : Bool
  cOp : BitVec 4
  hReq : Bool
  hLen : BitVec 4
  hData : Byte
  rst : Bool
deriving DecidableEq, Repr

/-- The output signals of 30_encoding.md R79, each with a value in every clock. -/
structure PortOutputs where
  pStored : BitVec 1
  cRdata : BitVec 64
  cBusy : Bool
  hAck : BitVec 1
  indOut : Bool
deriving DecidableEq, Repr

/-- `c_busy` is 1 while phase = Drain (30_encoding.md R79). -/
def State.busy (s : State) : Bool := decide (s.phase = .drain)

/-- The producer port: `p_req` strobes one INSERT of `p_data` (30_encoding.md R79). -/
def PortInputs.producerTurns (p : PortInputs) : List Turn :=
  if p.pReq then [.of (.insert p.pData)] else []

/-- The consumer port of a block in state `s` at the start of the clock (30_encoding.md R79). While busy it
accepts no command: a strobe in such a clock does nothing, and the block performs DSTEPs itself.
DESIGN CHOICE (log entry 21): it performs exactly one in each busy clock, a number R79 leaves open. When
not busy, `c_req` strobes the command whose op is `c_op`. -/
def PortInputs.consumerTurns (p : PortInputs) (s : State) : List Turn :=
  if s.busy then [.dstep]
  else if p.cReq then [.command .consumer (packWord p.cOp 0 0)] else []

/-- The host port: `h_req` strobes one LEDWR (30_encoding.md R79). -/
def PortInputs.hostTurns (p : PortInputs) : List Turn :=
  if p.hReq then [.of (.ledwr p.hLen p.hData)] else []

/-- The turns that one clock's requests may act as on a block in state `s`: RESET alone when `rst` is set,
and otherwise every serial order of the requests (60_exceptions.md R177, 20_memory.md R63, R69; log
entry 18). -/
def PortInputs.orders (p : PortInputs) (s : State) : List (List Turn) :=
  if p.rst then [[.of .reset]]
  else (p.producerTurns ++ p.consumerTurns s ++ p.hostTurns).permutations'

/-- The given turns taken one after the other; the state's own schedule stays to come. -/
def takeTurns : List Turn → State → Result
  | [], s => .next s
  | t :: ts, s =>
    match takeTurn (s.present t) with
    | .next s' => takeTurns ts s'
    | .fault f => .fault f
    | .refused r => .refused r

/-- The block as its ports show it: the block's state, and two pieces of the model's own bookkeeping, how
many clocks have passed and the events of the newest one (log entry 15). -/
structure Board where
  block : State
  clocks : Nat
  fresh : List Event
deriving DecidableEq, Repr

/-- The block at its ports after power-on: no clock has passed. -/
def Board.powerOn : Board where
  block := State.reset
  clocks := 0
  fresh := []

/-- One clock in which the block takes the given turns, in their order. -/
def Board.clockIn (b : Board) (turns : List Turn) : Host.Outcome Board Fault Refusal :=
  match takeTurns turns b.block with
  | .next t => .next { block := t, clocks := b.clocks + 1, fresh := t.trace.drop b.block.trace.length }
  | .fault f => .fault f
  | .refused r => .refused r

/-- What one clock with the given inputs may do: one outcome for each serial order of its requests, and a
realization takes one of them (20_memory.md R63, R69). -/
def Board.clock (b : Board) (p : PortInputs) : List (Host.Outcome Board Fault Refusal) :=
  (p.orders b.block).map b.clockIn

/-- A response on the 64-bit response signal, its upper bits 0 (30_encoding.md R79). -/
def rdataOf : Response → BitVec 64
  | .bit b => b.setWidth 64
  | .byte v => zext64 v
  | .wide v => v

/-- The newest response to an agent. -/
def lastResponse (a : Agent) : List Event → Option Response
  | [] => none
  | e :: es =>
    match lastResponse a es with
    | some v => some v
    | none =>
      match e with
      | .resp b _ v => if b = a then some v else none
      | _ => none

/-- The response signal of an agent's port: the response made in the newest clock. The spec gives the signal
no value in a clock without one: it is then a free value (log entry 15). -/
def Board.response (b : Board) (a : Agent) : BitVec 64 :=
  match lastResponse a b.fresh with
  | some v => rdataOf v
  | none => Config.undriven a b.clocks

/-- The output signals after the newest clock (30_encoding.md R79). -/
def Board.outputs (b : Board) : PortOutputs where
  pStored := (b.response .producer).setWidth 1
  cRdata := b.response .consumer
  cBusy := b.block.busy
  hAck := (b.response .host).setWidth 1
  indOut := b.block.indOut

end Sys2Proof.Machine
end

