-- ==== Sys2Proof/Safety.lean ====
section
/-! DEFINITION. What counts as a safe state and a safe run, in the terms the statements use: the
invariants of 10_state.md R26 and 41_frame_extractor.md R134, agreement of states on the block's own
state, runs of operations and of DSTEPs, the bytes that entered and left the buffer (20_memory.md R59),
and the validity of a listing (30_encoding.md R82). -/

namespace Sys2Proof.Safety

open Sys2Proof.Machine

/-! ## Invariants -/

/-- The invariant of every reachable state of the RingBuffer (10_state.md R26). -/
abbrev RingInv (s : State) : Prop :=
  s.count.toNat ≤ Config.C ∧ s.head.toNat < Config.C ∧ s.tail.toNat < Config.C ∧
    s.tail.toNat = (s.head.toNat + s.count.toNat) % Config.C

/-- The storage keeps its canonical form. -/
abbrev StorageInv (s : State) : Prop := s.storage.wf = true

/-- Slot `i` of the window, when the window holds a value and has the slot. -/
def windowSlot (s : State) (i : Nat) : Option Byte :=
  match s.win with
  | none => none
  | some w => w[i]?

/-- While phase = Drain: 0 <= k <= B-1 and count >= T - k (41_frame_extractor.md R134), and the slots the
drain has not yet filled still hold WIN_INIT (41_frame_extractor.md R135). -/
abbrev DrainInv (s : State) : Prop :=
  s.phase = .drain →
    s.k.toNat < Config.B ∧ Config.T ≤ s.count.toNat + s.k.toNat ∧ s.win.isSome = true ∧
      ∀ i : Fin Config.W, i.val + s.k.toNat < Config.W →
        windowSlot s i.val = some (Config.WIN_INIT.toList.getD (i.val + s.k.toNat) 0)

/-- The window exists only while phase = Drain (10_state.md R29). -/
abbrev WindowInv (s : State) : Prop := s.phase = .ready → s.win = none

/-- A set refusal mark names a word its agent's decoder does refuse, for that reason (10_state.md R40). -/
def RefusalInv (s : State) : Prop :=
  ∀ m, s.refusalMark = some m → decode m.agent m.word = .error m.reason

/-- The invariant that every step keeps. -/
structure Inv (s : State) : Prop where
  ring : RingInv s
  storage : StorageInv s
  drain : DrainInv s
  window : WindowInv s
  refusal : RefusalInv s

/-! ## Agreement of states -/

/-- Two states agree on all the hardware state of 10_state.md R41 (the marks, the trace and the schedule,
which are the model's bookkeeping, are left out). -/
structure SameBlock (s t : State) : Prop where
  storage : s.storage = t.storage
  head : s.head = t.head
  tail : s.tail = t.tail
  count : s.count = t.count
  phase : s.phase = t.phase
  k : s.k = t.k
  win : s.win = t.win
  report : s.report = t.report
  ledBits : s.ledBits = t.ledBits
  indOut : s.indOut = t.indOut

/-- Two states agree on everything but the storage slots outside the queue Q (10_state.md R27). -/
structure SameButStaleSlots (s t : State) : Prop where
  queue : s.queue = t.queue
  head : s.head = t.head
  tail : s.tail = t.tail
  count : s.count = t.count
  phase : s.phase = t.phase
  k : s.k = t.k
  win : s.win = t.win
  report : s.report = t.report
  ledBits : s.ledBits = t.ledBits
  indOut : s.indOut = t.indOut
  faultMark : s.faultMark = t.faultMark
  refusalMark : s.refusalMark = t.refusalMark
  trace : s.trace = t.trace
  schedule : s.schedule = t.schedule

/-! ## Runs -/

/-- The operations executed one after the other, stopping at the first that gives no next state. -/
def execAll : List Instr → State → Result
  | [], s => .next s
  | i :: is, s =>
    match exec i s with
    | .next t => execAll is t
    | .fault f => .fault f
    | .refused r => .refused r

/-- `n` DSTEPs, stopping at the first that gives no next state. -/
def dsteps : Nat → State → Result
  | 0, s => .next s
  | n + 1, s =>
    match dstep s with
    | .next t => dsteps n t
    | .fault f => .fault f
    | .refused r => .refused r

/-- The window after a list of bytes has been shifted in, oldest first (41_frame_extractor.md R135). -/
def windowAfter (init : Window) (xs : List Byte) : Window := xs.foldl shiftWindow init

/-- The state after power-on with a given schedule of inputs to come (70_reset_and_hazards.md R203). -/
def startWith (turns : List Turn) : State := { State.reset with schedule := turns }

/-- A state a run from power-on reaches, whatever the agents present (20_memory.md R58). -/
def Reachable (s : State) : Prop := ∃ n turns, core.run n (startWith turns) = .next s

/-! ## Bytes in, bytes out (20_memory.md R59) -/

/-- The events a step from `s` to `t` added to the trace. -/
def newEvents (s t : State) : List Event := t.trace.drop s.trace.length

/-- The byte a step stored: the data field of the presented word, when the step answered INSERT with 1. -/
def storedBy (s t : State) : List Byte :=
  if .resp .producer .insert (.bit 1#1) ∈ newEvents s t then
    match s.schedule with
    | .command _ w :: _ => [dataField w]
    | _ => []
  else []

/-- The byte a step removed: the one at `head`, when the step moved `head`. -/
def takenBy (s t : State) : List Byte :=
  if t.head = s.head then [] else [s.storage.read s.head.toNat]

/-- A state with the bytes stored (S) and taken (D) since the last RESET. -/
structure Flow where
  state : State
  stored : List Byte
  taken : List Byte

/-- The flow after a step to `t`; a RESET starts both sequences anew. -/
def Flow.to (f : Flow) (t : State) : Flow :=
  if .reset ∈ newEvents f.state t then { state := t, stored := [], taken := [] }
  else { state := t, stored := f.stored ++ storedBy f.state t, taken := f.taken ++ takenBy f.state t }

/-- `n` steps of the machine with the sequences S and D kept; none when the machine stopped. -/
def Flow.run : Nat → Flow → Option Flow
  | 0, f => some f
  | n + 1, f =>
    match step f.state with
    | .next t => Flow.run n (f.to t)
    | .fault _ => none
    | .refused _ => none

/-! ## Listings -/

/-- The turn at the head of the schedule is enabled (30_encoding.md R82). -/
def turnEnabled (s : State) : Bool :=
  match s.schedule with
  | .command .consumer _ :: _ => decide (s.phase = .ready)
  | .dstep :: _ => decide (s.phase = .drain)
  | _ => true

/-- Every turn taken in the next `n` steps is enabled when reached (30_encoding.md R82). -/
def validFor : Nat → State → Bool
  | 0, _ => true
  | n + 1, s =>
    turnEnabled s &&
      match step s with
      | .next t => validFor n t
      | _ => true

/-- The premise "no refusal recorded" (60_exceptions.md R173) and no fault (R171). -/
def Clean (s : State) : Prop := s.faultMark = none ∧ s.refusalMark = none

/-- A start state of 70_reset_and_hazards.md R203: the invariant of 10_state.md R26 and phase = Ready.
A report of this model always has eight bytes. -/
def ValidStart (s : State) : Prop := RingInv s ∧ s.phase = .ready

end Sys2Proof.Safety
end

