-- ==== Sys2Proof/Certificates/Slice0/Obligations.lean ====
section
/-! DEFINITION. The statements for the provers. An equation `t = { s with …, schedule := t.schedule }` says
that every field it does not name, the schedule apart, is as in `s`: it is the frame. How the schedule
moves is the model's own (log entry 1) and has statements of its own. -/

open Sys2Proof Sys2Proof.Machine Sys2Proof.Safety

/-! ## Encoding -/

/-- 00_scope.md R8: the check on the parameters accepts exactly those that meet all the constraints, and it
accepts the defaults. That WIN_INIT has W slots is R7's. -/
def Obligations.ParameterCheckIsExactlyTheConstraints : Prop :=
  (∀ p : Params, p.winInit.length = p.w →
    (p.wellFormed = true ↔
      (1 ≤ p.c ∧ p.c ≤ 2 ^ p.cntW - 1) ∧ (p.w = 2 + p.p ∧ p.rlen = p.p) ∧ p.b = p.w ∧ p.b ≤ p.t ∧
      p.t ≤ p.c ∧ (p.mk0 ≤ 2 ^ p.byteW - 1 ∧ p.mk1 ≤ 2 ^ p.byteW - 1) ∧
      ∀ x ∈ p.winInit, x ≤ 2 ^ p.byteW - 1)) ∧
  Config.params.wellFormed = true

/-- Words written out from the patterns of 30_encoding.md R73, and the vectors V70 to V80 of
95_test_vectors.md. -/
def Obligations.WordsDecodeAsTheTableWritesThem : Prop :=
  decode .producer 0b0001_0000_0100_0001 = .ok (.insert 0x41) ∧
  decode .consumer 0b0010_0000_0000_0000 = .ok .remove ∧
  decode .consumer 0b0011_0000_0000_0000 = .ok .getcount ∧
  decode .consumer 0b0100_0000_0000_0000 = .ok .cycle ∧
  decode .consumer 0b0101_0000_0000_0000 = .ok .snapshot ∧
  decode .host 0b0110_0001_0000_0010 = .ok (.ledwr 1 0x02) ∧
  decode .resetSource 0b0111_0000_0000_0000 = .ok .reset ∧
  decode .consumer 0x0000 = .error .reservedOpcode ∧ decode .host 0xF102 = .error .reservedOpcode ∧
  decode .consumer 0x1041 = .error .wrongAgent ∧ decode .consumer 0x7001 = .error .wrongAgent ∧
  decode .consumer 0x2100 = .error .nonzeroField ∧ decode .producer 0x1141 = .error .nonzeroField

/-- Decoding the encoding of an instruction, presented by its owner, gives the instruction back, every
operand at every value (30_encoding.md R73, R83). -/
def Obligations.DecodeOfEncodeIsTheInstruction : Prop :=
  ∀ i : Instr, decode i.owner (encode i) = .ok i ∧ decodeTableWord 16 (encode i).toNat = some i

/-- A word is accepted from an agent only when the agent owns the operation and the word is its
encoding: every accepted word has one meaning and no bit of it is dropped (30_encoding.md R73 to R75,
R83). -/
def Obligations.OnlyTheOwnersEncodingIsAccepted : Prop :=
  ∀ (a : Agent) (w : Word) (i : Instr), decode a w = .ok i ↔ a = i.owner ∧ w = encode i

/-- 30_encoding.md R83, its four cases in their order. -/
def Obligations.DecoderChecksOpcodeThenAgentThenFields : Prop :=
  ∀ (a : Agent) (w : Word),
    ((w.extractLsb' 12 4).toNat = 0 ∨ 8 ≤ (w.extractLsb' 12 4).toNat →
      decode a w = .error .reservedOpcode) ∧
    (¬((w.extractLsb' 12 4).toNat = 0 ∨ 8 ≤ (w.extractLsb' 12 4).toNat) →
      ∃ m : OpName, w.extractLsb' 12 4 = m.opcode ∧
        (a ≠ m.owner → decode a w = .error .wrongAgent) ∧
        (a = m.owner →
          ((m ≠ .ledwr ∧ w.extractLsb' 8 4 ≠ 0) ∨
            (m ≠ .ledwr ∧ m ≠ .insert ∧ w.extractLsb' 0 8 ≠ 0) →
            decode a w = .error .nonzeroField) ∧
          (¬((m ≠ .ledwr ∧ w.extractLsb' 8 4 ≠ 0) ∨
              (m ≠ .ledwr ∧ m ≠ .insert ∧ w.extractLsb' 0 8 ≠ 0)) →
            ∃ i, decode a w = .ok i ∧ i.opName = m ∧
              (∀ d, i = .insert d → d = w.extractLsb' 0 8) ∧
              (∀ len v, i = .ledwr len v → len = w.extractLsb' 8 4 ∧ v = w.extractLsb' 0 8))))

/-- 20_memory.md R52: byte report[i] occupies bits [8i+7:8i] of the 64-bit report. -/
def Obligations.ReportByteLiesInItsBusLane : Prop :=
  ∀ (r : Report) (i : Fin 8), (reportBus r).extractLsb' (8 * i.val) 8 = r[i.val]

/-! ## The step -/

/-- The state after reset, field by field (10_state.md R23 to R25, R30 to R32, R34, R35, R39, R40). That a
slot of the storage reads as 0x00 is the model's choice (log entry 8). -/
def Obligations.ResetStateHoldsTheSpecsValues : Prop :=
  State.reset.head = 0 ∧ State.reset.tail = 0 ∧ State.reset.count = 0 ∧ State.reset.phase = .ready ∧
  State.reset.k = 0 ∧ State.reset.win = none ∧ State.reset.report = #v[0, 0, 0, 0, 0, 0, 0, 0] ∧
  State.reset.ledBits = 0 ∧ State.reset.indOut = false ∧ State.reset.faultMark = none ∧
  State.reset.refusalMark = none ∧ State.reset.trace = [] ∧
  ∀ i : Nat, i < 255 → State.reset.storage.read i = 0

/-- A presented word that decodes to `i` runs exactly `i` (30_encoding.md R83; log entry 1 for how a word
is presented). A consumer command in a drain is held by `exec i` itself. -/
def Obligations.StepExecutesTheDecodedCommand : Prop :=
  ∀ (s : State) (a : Agent) (w : Word) (rest : List Turn) (i : Instr),
    s.faultMark = none → s.schedule = .command a w :: rest → decode a w = .ok i → step s = exec i s

/-- A word presented in front of the schedule of an unfaulted state is what the next step runs: the
model's `withFetchWord` (log entries 1 and 19). -/
def Obligations.PresentedTableWordIsRunNext : Prop :=
  ∀ (s : State) (w : Nat) (i : Instr), s.faultMark = none → decodeTableWord 16 w = some i →
    step (s.withFetchWord 16 w) = exec i (s.withFetchWord 16 w)

/-- 60_exceptions.md R173: "A refusal changes no block state. It sets a refusal mark that is kept for the
rest of the run and is never cleared, RESET included." The words of the consumer are not taken in a
drain (log entry 3); that the turn is used up is the model's own (log entry 1). -/
def Obligations.RefusedWordSetsTheMarkAndNothingElse : Prop :=
  ∀ (s : State) (a : Agent) (w : Word) (rest : List Turn) (r : RefuseReason),
    s.faultMark = none → s.schedule = .command a w :: rest → ¬(a = .consumer ∧ s.phase = .drain) →
    decode a w = .error r →
    (s.refusalMark = none →
      step s = .next { s with
        refusalMark := some { reason := r, agent := a, word := w }, schedule := rest }) ∧
    (s.refusalMark ≠ none → step s = .next { s with schedule := rest })

/-- 60_exceptions.md R171: after a fault no agent takes another step. -/
def Obligations.FaultedMachineTakesNoStep : Prop :=
  ∀ (s : State) (m : FaultMark) (n : Nat) (t : State),
    s.faultMark = some m → Sys2Proof.core.run (n + 1) s ≠ .next t

/-- Over every step the fault mark stays as it is, a set refusal mark stays set as it is, and the trace
only grows at its end (10_state.md R39, R40). -/
def Obligations.MarksStayAndTraceOnlyGrows : Prop :=
  ∀ s t : State, step s = .next t →
    t.faultMark = s.faultMark ∧ (∀ m, s.refusalMark = some m → t.refusalMark = some m) ∧
    ∃ es, t.trace = s.trace ++ es

/-- Every operation that is not held uses up exactly one turn, and a held one uses up none: the model's
own (log entries 1 and 3). -/
def Obligations.EachExecutedCommandUsesOneTurn : Prop :=
  ∀ (i : Instr) (s t : State), exec i s = .next t →
    (i.owner ≠ .consumer ∨ s.phase = .ready → t.schedule = s.schedule.tail) ∧
    (i.owner = .consumer → s.phase = .drain → t.schedule = s.schedule)

/-! ## RingBuffer -/

/-- 40_ringbuffer.md R100, both branches, with everything else unchanged. That Resp stands before Drop in
the trace is the model's reading: log entry 14. -/
def Obligations.InsertStoresAtTailOrDropsWhenFull : Prop :=
  ∀ (d : Byte) (s : State), s.tail.toNat < 255 → s.storage.wf = true →
    encode (.insert d) = 0x1000 ||| d.setWidth 16 ∧ (Instr.insert d).owner = .producer ∧
    (s.count.toNat = 255 →
      ∃ t, exec (.insert d) s = .next t ∧
        t = { s with
          trace := s.trace ++ [.resp .producer .insert (.bit 0#1), .drop d], schedule := t.schedule }) ∧
    (s.count.toNat ≠ 255 →
      ∃ t, exec (.insert d) s = .next t ∧
        t.storage.read s.tail.toNat = d ∧
        (∀ a, a ≠ s.tail.toNat → t.storage.read a = s.storage.read a) ∧ t.storage.wf = true ∧
        t.tail.toNat = (s.tail.toNat + 1) % 255 ∧ t.count.toNat = s.count.toNat + 1 ∧
        t.trace = s.trace ++ [.resp .producer .insert (.bit 1#1)] ∧
        t = { s with
          storage := t.storage, tail := t.tail, count := t.count, trace := t.trace,
          schedule := t.schedule })

/-- 40_ringbuffer.md R101 while phase = Ready: the oldest byte is returned and leaves the queue Q
(10_state.md R27), or the machine faults on an empty buffer with the mark of 60_exceptions.md R171. -/
def Obligations.RemoveReturnsTheOldestByteOrFaults : Prop :=
  ∀ s : State, s.phase = .ready → s.head.toNat < 255 →
    encode .remove = 0x2000 ∧ Instr.remove.owner = .consumer ∧
    (s.count = 0 →
      exec .remove s = .fault (.removeEmpty { s with
        faultMark := some { kind := .removeEmpty, word := 0x2000, agent := .consumer,
                            head := s.head, tail := s.tail } })) ∧
    (s.count ≠ 0 →
      ∃ t, exec .remove s = .next t ∧
        s.queue = s.storage.read s.head.toNat :: t.queue ∧
        t.head.toNat = (s.head.toNat + 1) % 255 ∧ t.count.toNat = s.count.toNat - 1 ∧
        t = { s with
          head := t.head, count := t.count,
          trace := s.trace ++ [.resp .consumer .remove (.byte (s.storage.read s.head.toNat))],
          schedule := t.schedule })

/-- 40_ringbuffer.md R102 while phase = Ready. -/
def Obligations.GetcountAnswersCountAndChangesNothing : Prop :=
  ∀ s : State, s.phase = .ready →
    encode .getcount = 0x3000 ∧ Instr.getcount.owner = .consumer ∧
    ∃ t, exec .getcount s = .next t ∧
      t = { s with
        trace := s.trace ++ [.resp .consumer .getcount (.byte s.count)], schedule := t.schedule }

/-- The overflow law, from any state of the invariant. 40_ringbuffer.md R104 states it and marks it derived
from R100. -/
def Obligations.OverflowKeepsTheFirstBytes : Prop :=
  ∀ (s : State) (ds : List Byte), Inv s →
    ∃ t, execAll (ds.map Instr.insert) s = .next t ∧
      t.queue = s.queue ++ ds.take (255 - s.count.toNat) ∧
      t.count.toNat = min (s.count.toNat + ds.length) 255 ∧ t.head = s.head

/-- The FIFO law, from reset. 40_ringbuffer.md R105 states it and marks it derived from R100 and R101. -/
def Obligations.RemovesReturnTheInsertsInOrder : Prop :=
  ∀ (bs : List Byte) (turns : List Turn), bs.length ≤ 255 →
    ∃ t, execAll (bs.map Instr.insert ++ List.replicate bs.length Instr.remove) (startWith turns) = .next t ∧
      t.trace = bs.map (fun _ => Event.resp .producer .insert (.bit 1#1)) ++
        bs.map (fun b => Event.resp .consumer .remove (.byte b)) ∧
      t.count = 0 ∧ t.head.toNat = bs.length % 255 ∧ t.tail.toNat = bs.length % 255

/-- The invariant of 10_state.md R26, which the spec marks derived: the invariant of every
reachable state, that head = tail is both empty and full, and that every RingBuffer operation keeps it. -/
def Obligations.RingInvariantHoldsInEveryReachableState : Prop :=
  (∀ s, Reachable s →
    RingInv s ∧ (s.head = s.tail ↔ s.count.toNat = 0 ∨ s.count.toNat = 255)) ∧
  RingInv State.reset ∧
  ∀ (s t : State) (d : Byte), RingInv s →
    (exec (.insert d) s = .next t ∨ exec .remove s = .next t ∨ exec .getcount s = .next t) → RingInv t

/-- The FIFO order of 20_memory.md R59, which the spec marks derived: what was stored is what was taken
followed by the queue, kept by every step from every state of the invariant, and true along every run from power-on under every
schedule. -/
def Obligations.StoredBytesAreTakenBytesThenTheQueue : Prop :=
  (∀ (f : Flow) (t : State), Inv f.state → f.stored = f.taken ++ f.state.queue →
    step f.state = .next t → (f.to t).stored = (f.to t).taken ++ t.queue) ∧
  ∀ (n : Nat) (turns : List Turn) (f : Flow),
    Flow.run n { state := startWith turns, stored := [], taken := [] } = some f →
      f.stored = f.taken ++ f.state.queue

/-- 70_reset_and_hazards.md R201: the storage outside the queue is never observable. Two states of the
invariant that differ only there take the same step to two such states: the trace, the report and every
other field agree. -/
def Obligations.StaleStorageIsNeverObserved : Prop :=
  ∀ s t s' : State, Inv s → Inv t → SameButStaleSlots s t → step s = .next s' →
    ∃ t', step t = .next t' ∧ SameButStaleSlots s' t'

/-! ## FrameExtractor -/

/-- 41_frame_extractor.md R130 and R133 while phase = Ready: a drain starts with a fresh window when
count >= 10, else the idle fallback. The window's start content is 92_eei_decisions.md D4 (log entry 12). -/
def Obligations.CycleStartsADrainOrFallsBackToIdle : Prop :=
  ∀ s : State, s.phase = .ready →
    encode .cycle = 0x4000 ∧ Instr.cycle.owner = .consumer ∧
    (10 ≤ s.count.toNat →
      ∃ t, exec .cycle s = .next t ∧
        t = { s with
          win := some #v[0, 0, 0, 0, 0, 0, 0, 0, 0, 0], k := 0, phase := .drain,
          schedule := t.schedule }) ∧
    (s.count.toNat < 10 →
      ∃ t, exec .cycle s = .next t ∧
        t = { s with
          report := #v[0, 0, 0, 0, 0, 0, 0, 0], indOut := false,
          trace := s.trace ++ [.cycle .idle], schedule := t.schedule })

/-- 41_frame_extractor.md R132 with the body of R131: one DSTEP takes the byte at head into the last slot
and ends the cycle on a match, or at the tenth byte without one. -/
def Obligations.DstepShiftsOneByteAndTestsTheMarker : Prop :=
  ∀ (s : State) (w : Window), s.phase = .drain → s.head.toNat < 255 → s.count ≠ 0 →
    s.k.toNat < 10 → s.win = some w →
    ∃ (t : State) (w' : Window), dstep s = .next t ∧
      (∀ (i : Nat) (h : i < 9), w'[i]'(by show i < 10; omega) = w[i + 1]'(by show i + 1 < 10; omega)) ∧
      w'[9] = s.storage.read s.head.toNat ∧
      t.head.toNat = (s.head.toNat + 1) % 255 ∧ t.count.toNat = s.count.toNat - 1 ∧
      t.k.toNat = s.k.toNat + 1 ∧
      t = { s with
        head := t.head, count := t.count, k := t.k, win := t.win, phase := t.phase,
        report := t.report, trace := t.trace } ∧
      (w'[0] = 0xFF ∧ w'[1] = 0xFE →
        t.phase = .ready ∧
        t.report = #v[w'[2], w'[3], w'[4], w'[5], w'[6], w'[7], w'[8], w'[9]] ∧
        t.trace = s.trace ++ [.cycle (.matched t.k)]) ∧
      (¬(w'[0] = 0xFF ∧ w'[1] = 0xFE) → t.k.toNat = 10 →
        t.phase = .ready ∧ t.report = s.report ∧ t.trace = s.trace ++ [.cycle .noMatch]) ∧
      (¬(w'[0] = 0xFF ∧ w'[1] = 0xFE) → t.k.toNat ≠ 10 →
        t.phase = .drain ∧ t.win = some w' ∧ t.report = s.report ∧ t.trace = s.trace)

/-- 41_frame_extractor.md R135, its general formula, for every start content of the window: after k bytes
the window's slot i holds WIN_INIT[i+k], or byte i+k-W+1 (counted from 1) of those shifted in. -/
def Obligations.WindowHoldsItsStartContentThenTheBytes : Prop :=
  ∀ (init : Window) (xs : List Byte) (i : Nat), xs.length ≤ 10 → i < 10 →
    (i + xs.length ≤ 9 → (windowAfter init xs)[i]? = init[i + xs.length]?) ∧
    (9 < i + xs.length → (windowAfter init xs)[i]? = xs[i + xs.length - 10]?)

/-- 41_frame_extractor.md R134: in a drain of a state of the invariant, k and count have the stated bounds,
no DSTEP faults, and the drain ends within B - k DSTEPs. -/
def Obligations.DrainNeverFaultsAndEndsInTime : Prop :=
  ∀ s : State, Inv s → s.phase = .drain →
    s.k.toNat ≤ 9 ∧ 10 - s.k.toNat ≤ s.count.toNat ∧ 1 ≤ s.count.toNat ∧
    ∃ (n : Nat) (t : State), 1 ≤ n ∧ n ≤ 10 - s.k.toNat ∧ dsteps n s = .next t ∧ t.phase = .ready ∧ Inv t ∧
      ∀ m, m < n → ∃ u, dsteps m s = .next u ∧ u.phase = .drain

/-- 41_frame_extractor.md R135 at the default WIN_INIT, over the whole of `C: DRAIN` (30_encoding.md R81; its
second turn is log entry 16): exactly ten bytes are removed, they match if and only if the first two are
the marker, and then the report is the other eight. -/
def Obligations.DrainRemovesTenBytesAndMatchesAtTheirFront : Prop :=
  ∀ (s : State) (rest : List Turn) (x : Vector Byte 10) (q : List Byte),
    Inv s → s.faultMark = none → s.phase = .ready → s.queue = x.toList ++ q →
    s.schedule = .command .consumer 0x4000 :: .drain :: rest →
    ∃ u : State, Sys2Proof.core.run 11 s = .next u ∧ u.queue = q ∧
      u.head.toNat = (s.head.toNat + 10) % 255 ∧ u.count.toNat = s.count.toNat - 10 ∧
      u.phase = .ready ∧ u.win = none ∧ u.schedule = rest ∧
      u = { s with
        head := u.head, count := u.count, k := u.k, win := u.win, report := u.report,
        trace := u.trace, schedule := u.schedule } ∧
      (x[0] = 0xFF ∧ x[1] = 0xFE →
        u.report = #v[x[2], x[3], x[4], x[5], x[6], x[7], x[8], x[9]] ∧
        u.trace = s.trace ++ [.cycle (.matched 10)]) ∧
      (¬(x[0] = 0xFF ∧ x[1] = 0xFE) →
        u.report = s.report ∧ u.trace = s.trace ++ [.cycle .noMatch])

/-! ## ReportState and reset -/

/-- 42_report_indicator.md R150 while phase = Ready. That Resp stands before Sent in the trace, and that Resp
is kept there, is the model's reading: log entry 14. -/
def Obligations.SnapshotAnswersTheReportAndChangesNothing : Prop :=
  ∀ s : State, s.phase = .ready →
    encode .snapshot = 0x5000 ∧ Instr.snapshot.owner = .consumer ∧
    ∃ t, exec .snapshot s = .next t ∧
      t = { s with
        trace := s.trace ++ [.resp .consumer .snapshot (.wide (reportBus s.report)), .sent s.report],
        schedule := t.schedule }

/-- 42_report_indicator.md R156 with the indicator function of R157, in every phase. That Resp stands before
LedReject in the trace is the model's reading: log entry 14. -/
def Obligations.LedwrIsAcceptedAtLengthOneOnly : Prop :=
  ∀ (len : BitVec 4) (v : Byte) (s : State),
    encode (.ledwr len v) = 0x6000 ||| (len.setWidth 16 <<< 8) ||| v.setWidth 16 ∧
    (Instr.ledwr len v).owner = .host ∧
    (len = 1 →
      ∃ t, exec (.ledwr len v) s = .next t ∧
        t = { s with
          ledBits := v, indOut := v.getLsbD 1,
          trace := s.trace ++ [.resp .host .ledwr (.bit 1#1)], schedule := t.schedule }) ∧
    (len ≠ 1 →
      ∃ t, exec (.ledwr len v) s = .next t ∧
        t = { s with
          trace := s.trace ++ [.resp .host .ledwr (.bit 0#1), .ledReject len], schedule := t.schedule })

/-- 70_reset_and_hazards.md R200, in every state: storage, the marks and the trace so far are kept. The
values of report, ledBits and ind_out are 92_eei_decisions.md D5 to D7. -/
def Obligations.ResetClearsTheBlockAndKeepsTheMarks : Prop :=
  ∀ s : State, encode .reset = 0x7000 ∧ Instr.reset.owner = .resetSource ∧
    ∃ t, exec .reset s = .next t ∧
      t = { s with
        head := 0, tail := 0, count := 0, phase := .ready, k := 0, win := none,
        report := #v[0, 0, 0, 0, 0, 0, 0, 0], ledBits := 0, indOut := false,
        trace := s.trace ++ [.reset], schedule := t.schedule } ∧
      t.empty = true ∧ t.full = false ∧ t.avail = false

/-- The indicator output rises only by an accepted LED-state write with the Caps Lock bit, and then the
written byte is in ledBits (10_state.md R35; 42_report_indicator.md R157; 70_reset_and_hazards.md R218). -/
def Obligations.IndicatorRisesOnlyByAHostWrite : Prop :=
  ∀ s t : State, step s = .next t → s.indOut = false → t.indOut = true →
    ∃ (v : Byte) (rest : List Turn),
      s.schedule = .command .host (encode (.ledwr 1 v)) :: rest ∧ v.getLsbD 1 = true ∧ t.ledBits = v

/-! ## Agents -/

/-- 60_exceptions.md R183: while phase = Drain a consumer command is not executed. That the block then
performs the consumer's one enabled step, a DSTEP, and keeps the command waiting is the model's reading
(log entry 3). -/
def Obligations.ConsumerCommandsAreHeldInADrain : Prop :=
  ∀ (i : Instr) (s : State), i = .remove ∨ i = .getcount ∨ i = .cycle ∨ i = .snapshot →
    s.phase = .drain → exec i s = dstep s ∧ ∀ t, exec i s = .next t → t.schedule = s.schedule

/-- 60_exceptions.md R174: the hold is lifted within at most B consumer steps, with the command still
waiting (log entry 3). -/
def Obligations.HeldCommandWaitsAtMostTenSteps : Prop :=
  ∀ (s : State) (w : Word) (rest : List Turn), Inv s → s.faultMark = none → s.phase = .drain →
    s.schedule = .command .consumer w :: rest →
    ∃ (n : Nat) (t : State), 1 ≤ n ∧ n ≤ 10 ∧ Sys2Proof.core.run n s = .next t ∧ t.phase = .ready ∧
      t.schedule = .command .consumer w :: rest

/-- 60_exceptions.md R185, the may-write column, for the turn each agent takes; every other turn (a DSTEP,
the rest of a drain, no turn at all) is the consumer's (log entries 1 and 2). -/
def Obligations.EachAgentWritesOnlyWhatItOwns : Prop :=
  ∀ s t : State, step s = .next t →
    (∀ w rest, s.schedule = .command .producer w :: rest →
      t.head = s.head ∧ t.phase = s.phase ∧ t.k = s.k ∧ t.win = s.win ∧ t.report = s.report ∧
      t.ledBits = s.ledBits ∧ t.indOut = s.indOut ∧ (t.count = s.count ∨ t.count = s.count + 1)) ∧
    (∀ w rest, s.schedule = .command .host w :: rest →
      t.storage = s.storage ∧ t.head = s.head ∧ t.tail = s.tail ∧ t.count = s.count ∧
      t.phase = s.phase ∧ t.k = s.k ∧ t.win = s.win ∧ t.report = s.report) ∧
    ((∀ a w rest, s.schedule = .command a w :: rest → a = .consumer) →
      t.storage = s.storage ∧ t.tail = s.tail ∧ t.ledBits = s.ledBits ∧
      (t.count = s.count ∨ t.count = s.count - 1) ∧
      (t.indOut = s.indOut ∨ t.indOut = false ∧ s.phase = .ready ∧ s.count.toNat < 10))

/-- 20_memory.md R63 for INSERT and REMOVE, where the buffer is not empty: the two serial orders leave the
same block state and the same responses, unless the buffer is full. (With an empty buffer the order REMOVE
first faults by 40_ringbuffer.md R101: log entry 18.) That Resp stands before Drop in the trace is log entry
14. DSTEP in the place of REMOVE has a statement of its own, the next one. -/
def Obligations.InsertAndRemoveCommuteUnlessFull : Prop :=
  ∀ (s : State) (d : Byte), Inv s → s.phase = .ready → s.count ≠ 0 →
    ∃ t u : State, execAll [.insert d, .remove] s = .next t ∧ execAll [.remove, .insert d] s = .next u ∧
      (s.count.toNat ≠ 255 →
        SameBlock t u ∧ ∃ b,
          t.trace = s.trace ++
            [.resp .producer .insert (.bit 1#1), .resp .consumer .remove (.byte b)] ∧
          u.trace = s.trace ++
            [.resp .consumer .remove (.byte b), .resp .producer .insert (.bit 1#1)]) ∧
      (s.count.toNat = 255 →
        t.count.toNat = 254 ∧ u.count.toNat = 255 ∧ t.queue = s.queue.tail ∧
        u.queue = s.queue.tail ++ [d] ∧ ∃ b,
          t.trace = s.trace ++
            [.resp .producer .insert (.bit 0#1), .drop d, .resp .consumer .remove (.byte b)] ∧
          u.trace = s.trace ++
            [.resp .consumer .remove (.byte b), .resp .producer .insert (.bit 1#1)])

/-- 20_memory.md R63 for INSERT and DSTEP: the two serial orders leave the same block state and the same
responses, unless the buffer is full. That Resp stands before Drop in the trace is log entry 14. -/
def Obligations.InsertAndDstepCommuteUnlessFull : Prop :=
  ∀ (s : State) (d : Byte), Inv s → s.phase = .drain →
    ∃ s₁ t s₂ u : State, exec (.insert d) s = .next s₁ ∧ dstep s₁ = .next t ∧
      dstep s = .next s₂ ∧ exec (.insert d) s₂ = .next u ∧
      (s.count.toNat ≠ 255 →
        SameBlock t u ∧ ∃ es,
          t.trace = s.trace ++ [.resp .producer .insert (.bit 1#1)] ++ es ∧
          u.trace = s.trace ++ es ++ [.resp .producer .insert (.bit 1#1)]) ∧
      (s.count.toNat = 255 →
        t.count.toNat = 254 ∧ u.count.toNat = 255 ∧ t.queue = s.queue.tail ∧
        u.queue = s.queue.tail ++ [d] ∧
        SameBlock t { u with storage := t.storage, tail := t.tail, count := t.count } ∧ ∃ es,
          t.trace = s.trace ++ [.resp .producer .insert (.bit 0#1), .drop d] ++ es ∧
          u.trace = s.trace ++ es ++ [.resp .producer .insert (.bit 1#1)])

/-- 20_memory.md R69, the indicator race: the order of an accepted LEDWR and an idle CYCLE decides ind_out
and nothing else of the block. -/
def Obligations.IndicatorRaceIsDecidedByTheOrder : Prop :=
  ∀ (s : State) (v : Byte), s.phase = .ready → s.count.toNat < 10 →
    ∃ t u : State, execAll [.ledwr 1 v, .cycle] s = .next t ∧ execAll [.cycle, .ledwr 1 v] s = .next u ∧
      t.indOut = false ∧ u.indOut = v.getLsbD 1 ∧ t.ledBits = v ∧ u.ledBits = v ∧
      SameBlock t { u with indOut := false }

/-! ## Ports -/

/-- 60_exceptions.md R177 at the signals of 30_encoding.md R79: a clock of `rst` is one RESET, and every other
request of that clock is discarded. -/
def Obligations.RstPerformsResetAndDiscardsTheRest : Prop :=
  ∀ (b : Board) (p : PortInputs), b.block.faultMark = none → p.rst = true →
    ∃ c : Board, b.clock p = [.next c] ∧
      c.block = { b.block with
        head := 0, tail := 0, count := 0, phase := .ready, k := 0, win := none,
        report := #v[0, 0, 0, 0, 0, 0, 0, 0], ledBits := 0, indOut := false,
        trace := b.block.trace ++ [.reset] } ∧
      c.outputs.cBusy = false ∧ c.outputs.indOut = false

/-- 30_encoding.md R79: while phase = Drain `c_busy` is 1, the consumer port accepts no command whatever it
strobes, and the block performs DSTEPs itself. That it is one DSTEP in one clock is the model's choice:
log entry 21. -/
def Obligations.BusyPortAcceptsNoCommandAndStepsTheDrain : Prop :=
  ∀ (b : Board) (p : PortInputs), Inv b.block → b.block.faultMark = none → b.block.phase = .drain →
    p.rst = false → p.pReq = false → p.hReq = false →
    b.outputs.cBusy = true ∧ ∃ c : Board, b.clock p = [.next c] ∧ dstep b.block = .next c.block

/-- 30_encoding.md R79, the consumer port in a clock of its own: the response of each command on `c_rdata`, and
the fault of a REMOVE on an empty buffer (log entries 1 and 5). -/
def Obligations.ConsumerPortGivesTheResponse : Prop :=
  ∀ (b : Board) (p : PortInputs), Inv b.block → b.block.faultMark = none → b.block.phase = .ready →
    p.rst = false → p.pReq = false → p.hReq = false → p.cReq = true →
    (p.cOp = 2 → b.block.count = 0 →
      b.clock p = [.fault (raiseRemoveEmpty (b.block.present (.command .consumer 0x2000)))]) ∧
    (p.cOp = 2 → b.block.count ≠ 0 →
      ∃ c, b.clock p = [.next c] ∧
        exec .remove (b.block.present (.command .consumer 0x2000)) = .next c.block ∧
        c.outputs.cRdata = (b.block.storage.read b.block.head.toNat).setWidth 64) ∧
    (p.cOp = 3 →
      ∃ c, b.clock p = [.next c] ∧
        exec .getcount (b.block.present (.command .consumer 0x3000)) = .next c.block ∧
        c.outputs.cRdata = b.block.count.setWidth 64) ∧
    (p.cOp = 4 →
      ∃ c, b.clock p = [.next c] ∧
        exec .cycle (b.block.present (.command .consumer 0x4000)) = .next c.block ∧
        (c.outputs.cBusy = true ↔ 10 ≤ b.block.count.toNat)) ∧
    (p.cOp = 5 →
      ∃ c, b.clock p = [.next c] ∧
        exec .snapshot (b.block.present (.command .consumer 0x5000)) = .next c.block ∧
        c.outputs.cRdata = reportBus b.block.report)

/-- 30_encoding.md R79, the producer's and the host's port, each in a clock of its own: `p_stored` is 1 unless the
buffer is full, `h_ack` is 1 at length 1 only, and the block does the port's operation (log entry 1). -/
def Obligations.ProducerAndHostPortsGiveTheirResponses : Prop :=
  ∀ (b : Board) (p : PortInputs), Inv b.block → b.block.faultMark = none → b.block.phase = .ready →
    p.rst = false → p.cReq = false →
    (p.pReq = true → p.hReq = false →
      ∃ c, b.clock p = [.next c] ∧
        exec (.insert p.pData) (b.block.present (.of (.insert p.pData))) = .next c.block ∧
        c.outputs.pStored = (if b.block.count.toNat = 255 then 0 else 1)) ∧
    (p.pReq = false → p.hReq = true →
      ∃ c, b.clock p = [.next c] ∧
        exec (.ledwr p.hLen p.hData) (b.block.present (.of (.ledwr p.hLen p.hData))) = .next c.block ∧
        c.outputs.hAck = (if p.hLen = 1 then 1 else 0) ∧
        c.outputs.indOut = (if p.hLen = 1 then p.hData.getLsbD 1 else b.block.indOut)) ∧
    (p.pReq = false → p.hReq = false →
      b.clock p = [.next { block := b.block, clocks := b.clocks + 1, fresh := [] }])

/-- 20_memory.md R63 at the signals: an INSERT and a REMOVE in one clock leave the state of one of the two serial
orders, and these differ only when the buffer is full. The premise that it is not empty is log entry 18. -/
def Obligations.SameClockInsertAndRemoveLeaveASerialState : Prop :=
  ∀ (b : Board) (p : PortInputs), Inv b.block → b.block.faultMark = none → b.block.phase = .ready →
    b.block.count ≠ 0 → p.rst = false → p.hReq = false → p.pReq = true → p.cReq = true → p.cOp = 2 →
    ∃ c d : Board, b.clock p = [.next c, .next d] ∧
      c.outputs.cRdata = (b.block.storage.read b.block.head.toNat).setWidth 64 ∧
      d.outputs.cRdata = (b.block.storage.read b.block.head.toNat).setWidth 64 ∧
      (b.block.count.toNat ≠ 255 →
        SameBlock c.block d.block ∧ c.block.count = b.block.count ∧ c.outputs.pStored = 1 ∧
        d.outputs.pStored = 1) ∧
      (b.block.count.toNat = 255 →
        c.block.count.toNat = 254 ∧ c.outputs.pStored = 0 ∧ d.block.count.toNat = 255 ∧
        d.outputs.pStored = 1)

/-! ## The whole machine -/

/-- The invariant holds at power-on, whatever is to be presented. -/
def Obligations.InvariantHoldsAtPowerOn : Prop :=
  Inv State.reset ∧ ∀ turns : List Turn, Inv (startWith turns)

/-- Every step of every agent keeps the invariant: 10_state.md R26, 41_frame_extractor.md R134, the window's
life (10_state.md R29), the canonical storage and a truthful refusal mark. -/
def Obligations.EveryStepKeepsTheInvariant : Prop :=
  ∀ s t : State, Inv s → step s = .next t → Inv t

/-- From a state of the invariant that is not faulted, a step stops in two cases only: a REMOVE on an empty
buffer (60_exceptions.md R171) and the turn `C: DSTEP` while phase = Ready (30_encoding.md R82; log entry
4). -/
def Obligations.OnlyEmptyRemoveOrAnInvalidListingStops : Prop :=
  ∀ s : State, Inv s → s.faultMark = none →
    (∃ t, step s = .next t) ∨
    (s.phase = .ready ∧ s.count = 0 ∧ (∃ rest, s.schedule = .command .consumer 0x2000 :: rest) ∧
      step s = .fault (raiseRemoveEmpty s)) ∨
    (s.phase = .ready ∧ (∃ rest, s.schedule = .dstep :: rest) ∧ step s = .refused .dstepNotEnabled)

/-- A whole frame from the producer reaches the transport: ten INSERTs into an empty buffer, `C: DRAIN`,
SNAPSHOT (20_memory.md R53; 95_test_vectors.md E3; log entries 1 and 16). That Resp stands before Sent in
the trace is log entry 14. -/
def Obligations.AFrameReachesTheTransport : Prop :=
  ∀ (s : State) (b : Vector Byte 8) (rest : List Turn),
    Inv s → s.faultMark = none → s.phase = .ready → s.count = 0 →
    s.schedule =
      (((0xFF : Byte) :: 0xFE :: b.toList).map fun d => .command .producer (encode (.insert d))) ++
        [.command .consumer 0x4000, .drain, .command .consumer 0x5000] ++ rest →
    ∃ u : State, Sys2Proof.core.run 22 s = .next u ∧ u.schedule = rest ∧ u.report = b ∧ u.count = 0 ∧
      u.phase = .ready ∧ u.ledBits = s.ledBits ∧ u.indOut = s.indOut ∧
      u.trace = s.trace ++ List.replicate 10 (.resp .producer .insert (.bit 1#1)) ++
        [.cycle (.matched 10), .resp .consumer .snapshot (.wide (reportBus b)), .sent b]

/-- One main-loop iteration (60_exceptions.md R184) with no other agent between its steps takes at most 12
steps (70_reset_and_hazards.md R213), and with readiness 1 it ends by sending the report it leaves (log
entries 1 and 16). That Resp stands before Sent in the trace is log entry 14. -/
def Obligations.AMainLoopIterationEndsWithinTwelveSteps : Prop :=
  ∀ (s : State) (ready : Bool) (rest : List Turn),
    Inv s → s.faultMark = none → s.phase = .ready →
    s.schedule = assemble [.iter ready] ++ rest →
    ∃ (n : Nat) (u : State), n ≤ 12 ∧ Sys2Proof.core.run n s = .next u ∧ u.schedule = rest ∧
      u.phase = .ready ∧ u.tail = s.tail ∧ u.storage = s.storage ∧ u.ledBits = s.ledBits ∧
      (s.count.toNat < 10 → u.count = s.count ∧ u.head = s.head ∧ u.report = idleReport ∧ u.indOut = false) ∧
      (10 ≤ s.count.toNat → u.count.toNat = s.count.toNat - 10 ∧ u.indOut = s.indOut) ∧
      (ready = true → ∃ es, u.trace = s.trace ++ es ++
        [.resp .consumer .snapshot (.wide (reportBus u.report)), .sent u.report])
end

