-- ==== Sys2Proof/Laws/Decode.lean ====
section
/-! SUPPORT. The fields of a packed word, and the cases of the decoder. -/

namespace Sys2Proof

@[simp] theorem opField_packWord (op aux : BitVec 4) (d : Byte) : opField (packWord op aux d) = op := by
  ext i hi
  simp only [opField, packWord, BitVec.getElem_extractLsb', BitVec.getLsbD_append]
  have h1 : ¬ 12 + i < 8 := by omega
  have h2 : ¬ 12 + i - 8 < 4 := by omega
  have h3 : 12 + i - 8 - 4 = i := by omega
  simp [h1, h2, h3, BitVec.getLsbD_eq_getElem hi]

@[simp] theorem auxField_packWord (op aux : BitVec 4) (d : Byte) :
    auxField (packWord op aux d) = aux := by
  ext i hi
  simp only [auxField, packWord, BitVec.getElem_extractLsb', BitVec.getLsbD_append]
  have h1 : ¬ 8 + i < 8 := by omega
  have h2 : 8 + i - 8 < 4 := by omega
  have h3 : 8 + i - 8 = i := by omega
  simp [h3, hi]

@[simp] theorem dataField_packWord (op aux : BitVec 4) (d : Byte) :
    dataField (packWord op aux d) = d := by
  ext i hi
  simp only [dataField, packWord, BitVec.getElem_extractLsb', BitVec.getLsbD_append]
  have h1 : 0 + i < 8 := by omega
  simp [hi]

/-- A word is the packing of its three fields. -/
theorem packWord_fields (w : Word) : packWord (opField w) (auxField w) (dataField w) = w := by
  apply BitVec.eq_of_getLsbD_eq
  intro i hi
  simp only [opField, auxField, dataField, packWord, BitVec.getLsbD_append, BitVec.getLsbD_extractLsb']
  by_cases h8 : i < 8
  · simp [h8]
  · by_cases h12 : i < 12
    · have h1 : i - 8 < 4 := by omega
      have h2 : 8 + (i - 8) = i := by omega
      simp [h8, h1, h2]
    · have h1 : ¬ i - 8 < 4 := by omega
      have h2 : i - 8 - 4 < 4 := by omega
      have h3 : 12 + (i - 8 - 4) = i := by omega
      simp [h8, h1, h2, h3]

/-- An op value that selects an operation is that operation's own. -/
theorem opNameOf_some {op : BitVec 4} {m : OpName} (h : opNameOf op = some m) : op = m.opcode := by
  revert h; revert m; revert op; decide

theorem opNameOf_opcode (m : OpName) : opNameOf m.opcode = some m := by cases m <;> decide

/-- The reserved op values (30_encoding.md R73, R74). -/
theorem opNameOf_none_iff (op : BitVec 4) : opNameOf op = none ↔ op.toNat = 0 ∨ 8 ≤ op.toNat := by
  revert op; decide

theorem decode_of_reserved (a : Agent) {w : Word} (h : opNameOf (opField w) = none) :
    decode a w = .error .reservedOpcode := by
  simp only [decode, h]

theorem decode_of_op (a : Agent) {w : Word} {m : OpName} (h : opNameOf (opField w) = some m) :
    decode a w = if a ≠ m.owner then .error .wrongAgent
      else if m.fieldError w then .error .nonzeroField else .ok (m.operandsOf w) := by
  simp only [decode, h]

/-- When the decoder gives an operation: the op is the operation's, the agent owns it, and no field is
wrong. -/
theorem decode_ok {a : Agent} {w : Word} {i : Instr} (h : decode a w = .ok i) :
    ∃ m, opNameOf (opField w) = some m ∧ a = m.owner ∧ m.fieldError w = false ∧ i = m.operandsOf w := by
  cases hm : opNameOf (opField w) with
  | none => rw [decode_of_reserved a hm] at h; cases h
  | some m =>
    rw [decode_of_op a hm] at h
    split at h
    · cases h
    · next ha =>
      split at h
      · cases h
      · next hf =>
        exact ⟨m, rfl, by simpa using ha, by simpa using hf, (Except.ok.inj h).symm⟩

@[simp] theorem opName_operandsOf (m : OpName) (w : Word) : (m.operandsOf w).opName = m := by
  cases m <;> rfl

end Sys2Proof
end

