-- ==== Sys2Proof/Laws/State.lean ====
section
/-! SUPPORT. One lemma per field per update of the state: later proofs unfold no record update. -/

namespace Sys2Proof.Machine

variable (s : State)

/-! ## setStorage -/

@[simp] theorem State.setStorage_storage (m : Memory) :
    (s.setStorage m).storage = m := rfl
@[simp] theorem State.setStorage_head (m : Memory) :
    (s.setStorage m).head = s.head := rfl
@[simp] theorem State.setStorage_tail (m : Memory) :
    (s.setStorage m).tail = s.tail := rfl
@[simp] theorem State.setStorage_count (m : Memory) :
    (s.setStorage m).count = s.count := rfl
@[simp] theorem State.setStorage_phase (m : Memory) :
    (s.setStorage m).phase = s.phase := rfl
@[simp] theorem State.setStorage_k (m : Memory) :
    (s.setStorage m).k = s.k := rfl
@[simp] theorem State.setStorage_win (m : Memory) :
    (s.setStorage m).win = s.win := rfl
@[simp] theorem State.setStorage_report (m : Memory) :
    (s.setStorage m).report = s.report := rfl
@[simp] theorem State.setStorage_ledBits (m : Memory) :
    (s.setStorage m).ledBits = s.ledBits := rfl
@[simp] theorem State.setStorage_indOut (m : Memory) :
    (s.setStorage m).indOut = s.indOut := rfl
@[simp] theorem State.setStorage_faultMark (m : Memory) :
    (s.setStorage m).faultMark = s.faultMark := rfl
@[simp] theorem State.setStorage_refusalMark (m : Memory) :
    (s.setStorage m).refusalMark = s.refusalMark := rfl
@[simp] theorem State.setStorage_trace (m : Memory) :
    (s.setStorage m).trace = s.trace := rfl
@[simp] theorem State.setStorage_schedule (m : Memory) :
    (s.setStorage m).schedule = s.schedule := rfl

/-! ## spendTurn -/

@[simp] theorem State.spendTurn_storage :
    s.spendTurn.storage = s.storage := rfl
@[simp] theorem State.spendTurn_head :
    s.spendTurn.head = s.head := rfl
@[simp] theorem State.spendTurn_tail :
    s.spendTurn.tail = s.tail := rfl
@[simp] theorem State.spendTurn_count :
    s.spendTurn.count = s.count := rfl
@[simp] theorem State.spendTurn_phase :
    s.spendTurn.phase = s.phase := rfl
@[simp] theorem State.spendTurn_k :
    s.spendTurn.k = s.k := rfl
@[simp] theorem State.spendTurn_win :
    s.spendTurn.win = s.win := rfl
@[simp] theorem State.spendTurn_report :
    s.spendTurn.report = s.report := rfl
@[simp] theorem State.spendTurn_ledBits :
    s.spendTurn.ledBits = s.ledBits := rfl
@[simp] theorem State.spendTurn_indOut :
    s.spendTurn.indOut = s.indOut := rfl
@[simp] theorem State.spendTurn_faultMark :
    s.spendTurn.faultMark = s.faultMark := rfl
@[simp] theorem State.spendTurn_refusalMark :
    s.spendTurn.refusalMark = s.refusalMark := rfl
@[simp] theorem State.spendTurn_trace :
    s.spendTurn.trace = s.trace := rfl
@[simp] theorem State.spendTurn_schedule :
    s.spendTurn.schedule = s.schedule.tail := rfl

/-! ## emit -/

@[simp] theorem State.emit_storage (e : Event) :
    (s.emit e).storage = s.storage := rfl
@[simp] theorem State.emit_head (e : Event) :
    (s.emit e).head = s.head := rfl
@[simp] theorem State.emit_tail (e : Event) :
    (s.emit e).tail = s.tail := rfl
@[simp] theorem State.emit_count (e : Event) :
    (s.emit e).count = s.count := rfl
@[simp] theorem State.emit_phase (e : Event) :
    (s.emit e).phase = s.phase := rfl
@[simp] theorem State.emit_k (e : Event) :
    (s.emit e).k = s.k := rfl
@[simp] theorem State.emit_win (e : Event) :
    (s.emit e).win = s.win := rfl
@[simp] theorem State.emit_report (e : Event) :
    (s.emit e).report = s.report := rfl
@[simp] theorem State.emit_ledBits (e : Event) :
    (s.emit e).ledBits = s.ledBits := rfl
@[simp] theorem State.emit_indOut (e : Event) :
    (s.emit e).indOut = s.indOut := rfl
@[simp] theorem State.emit_faultMark (e : Event) :
    (s.emit e).faultMark = s.faultMark := rfl
@[simp] theorem State.emit_refusalMark (e : Event) :
    (s.emit e).refusalMark = s.refusalMark := rfl
@[simp] theorem State.emit_trace (e : Event) :
    (s.emit e).trace = s.trace ++ [e] := rfl
@[simp] theorem State.emit_schedule (e : Event) :
    (s.emit e).schedule = s.schedule := rfl

/-! ## respond -/

@[simp] theorem State.respond_storage (op : OpName) (v : Response) :
    (s.respond op v).storage = s.storage := rfl
@[simp] theorem State.respond_head (op : OpName) (v : Response) :
    (s.respond op v).head = s.head := rfl
@[simp] theorem State.respond_tail (op : OpName) (v : Response) :
    (s.respond op v).tail = s.tail := rfl
@[simp] theorem State.respond_count (op : OpName) (v : Response) :
    (s.respond op v).count = s.count := rfl
@[simp] theorem State.respond_phase (op : OpName) (v : Response) :
    (s.respond op v).phase = s.phase := rfl
@[simp] theorem State.respond_k (op : OpName) (v : Response) :
    (s.respond op v).k = s.k := rfl
@[simp] theorem State.respond_win (op : OpName) (v : Response) :
    (s.respond op v).win = s.win := rfl
@[simp] theorem State.respond_report (op : OpName) (v : Response) :
    (s.respond op v).report = s.report := rfl
@[simp] theorem State.respond_ledBits (op : OpName) (v : Response) :
    (s.respond op v).ledBits = s.ledBits := rfl
@[simp] theorem State.respond_indOut (op : OpName) (v : Response) :
    (s.respond op v).indOut = s.indOut := rfl
@[simp] theorem State.respond_faultMark (op : OpName) (v : Response) :
    (s.respond op v).faultMark = s.faultMark := rfl
@[simp] theorem State.respond_refusalMark (op : OpName) (v : Response) :
    (s.respond op v).refusalMark = s.refusalMark := rfl
@[simp] theorem State.respond_trace (op : OpName) (v : Response) :
    (s.respond op v).trace = s.trace ++ [.resp op.owner op v] := rfl
@[simp] theorem State.respond_schedule (op : OpName) (v : Response) :
    (s.respond op v).schedule = s.schedule := rfl

/-! ## markFault -/

@[simp] theorem State.markFault_storage (m : FaultMark) :
    (s.markFault m).storage = s.storage := rfl
@[simp] theorem State.markFault_head (m : FaultMark) :
    (s.markFault m).head = s.head := rfl
@[simp] theorem State.markFault_tail (m : FaultMark) :
    (s.markFault m).tail = s.tail := rfl
@[simp] theorem State.markFault_count (m : FaultMark) :
    (s.markFault m).count = s.count := rfl
@[simp] theorem State.markFault_phase (m : FaultMark) :
    (s.markFault m).phase = s.phase := rfl
@[simp] theorem State.markFault_k (m : FaultMark) :
    (s.markFault m).k = s.k := rfl
@[simp] theorem State.markFault_win (m : FaultMark) :
    (s.markFault m).win = s.win := rfl
@[simp] theorem State.markFault_report (m : FaultMark) :
    (s.markFault m).report = s.report := rfl
@[simp] theorem State.markFault_ledBits (m : FaultMark) :
    (s.markFault m).ledBits = s.ledBits := rfl
@[simp] theorem State.markFault_indOut (m : FaultMark) :
    (s.markFault m).indOut = s.indOut := rfl
@[simp] theorem State.markFault_faultMark (m : FaultMark) :
    (s.markFault m).faultMark = some m := rfl
@[simp] theorem State.markFault_refusalMark (m : FaultMark) :
    (s.markFault m).refusalMark = s.refusalMark := rfl
@[simp] theorem State.markFault_trace (m : FaultMark) :
    (s.markFault m).trace = s.trace := rfl
@[simp] theorem State.markFault_schedule (m : FaultMark) :
    (s.markFault m).schedule = s.schedule := rfl

/-! ## markRefusal -/

@[simp] theorem State.markRefusal_storage (m : RefusalMark) :
    (s.markRefusal m).storage = s.storage := rfl
@[simp] theorem State.markRefusal_head (m : RefusalMark) :
    (s.markRefusal m).head = s.head := rfl
@[simp] theorem State.markRefusal_tail (m : RefusalMark) :
    (s.markRefusal m).tail = s.tail := rfl
@[simp] theorem State.markRefusal_count (m : RefusalMark) :
    (s.markRefusal m).count = s.count := rfl
@[simp] theorem State.markRefusal_phase (m : RefusalMark) :
    (s.markRefusal m).phase = s.phase := rfl
@[simp] theorem State.markRefusal_k (m : RefusalMark) :
    (s.markRefusal m).k = s.k := rfl
@[simp] theorem State.markRefusal_win (m : RefusalMark) :
    (s.markRefusal m).win = s.win := rfl
@[simp] theorem State.markRefusal_report (m : RefusalMark) :
    (s.markRefusal m).report = s.report := rfl
@[simp] theorem State.markRefusal_ledBits (m : RefusalMark) :
    (s.markRefusal m).ledBits = s.ledBits := rfl
@[simp] theorem State.markRefusal_indOut (m : RefusalMark) :
    (s.markRefusal m).indOut = s.indOut := rfl
@[simp] theorem State.markRefusal_faultMark (m : RefusalMark) :
    (s.markRefusal m).faultMark = s.faultMark := rfl
@[simp] theorem State.markRefusal_refusalMark (m : RefusalMark) :
    (s.markRefusal m).refusalMark = match s.refusalMark with | none => some m | some first => some first := rfl
@[simp] theorem State.markRefusal_trace (m : RefusalMark) :
    (s.markRefusal m).trace = s.trace := rfl
@[simp] theorem State.markRefusal_schedule (m : RefusalMark) :
    (s.markRefusal m).schedule = s.schedule := rfl

/-! ## advanceTail -/

@[simp] theorem State.advanceTail_storage :
    s.advanceTail.storage = s.storage := rfl
@[simp] theorem State.advanceTail_head :
    s.advanceTail.head = s.head := rfl
@[simp] theorem State.advanceTail_tail :
    s.advanceTail.tail = nextIndex s.tail := rfl
@[simp] theorem State.advanceTail_count :
    s.advanceTail.count = s.count + 1 := rfl
@[simp] theorem State.advanceTail_phase :
    s.advanceTail.phase = s.phase := rfl
@[simp] theorem State.advanceTail_k :
    s.advanceTail.k = s.k := rfl
@[simp] theorem State.advanceTail_win :
    s.advanceTail.win = s.win := rfl
@[simp] theorem State.advanceTail_report :
    s.advanceTail.report = s.report := rfl
@[simp] theorem State.advanceTail_ledBits :
    s.advanceTail.ledBits = s.ledBits := rfl
@[simp] theorem State.advanceTail_indOut :
    s.advanceTail.indOut = s.indOut := rfl
@[simp] theorem State.advanceTail_faultMark :
    s.advanceTail.faultMark = s.faultMark := rfl
@[simp] theorem State.advanceTail_refusalMark :
    s.advanceTail.refusalMark = s.refusalMark := rfl
@[simp] theorem State.advanceTail_trace :
    s.advanceTail.trace = s.trace := rfl
@[simp] theorem State.advanceTail_schedule :
    s.advanceTail.schedule = s.schedule := rfl

/-! ## advanceHead -/

@[simp] theorem State.advanceHead_storage :
    s.advanceHead.storage = s.storage := rfl
@[simp] theorem State.advanceHead_head :
    s.advanceHead.head = nextIndex s.head := rfl
@[simp] theorem State.advanceHead_tail :
    s.advanceHead.tail = s.tail := rfl
@[simp] theorem State.advanceHead_count :
    s.advanceHead.count = s.count - 1 := rfl
@[simp] theorem State.advanceHead_phase :
    s.advanceHead.phase = s.phase := rfl
@[simp] theorem State.advanceHead_k :
    s.advanceHead.k = s.k := rfl
@[simp] theorem State.advanceHead_win :
    s.advanceHead.win = s.win := rfl
@[simp] theorem State.advanceHead_report :
    s.advanceHead.report = s.report := rfl
@[simp] theorem State.advanceHead_ledBits :
    s.advanceHead.ledBits = s.ledBits := rfl
@[simp] theorem State.advanceHead_indOut :
    s.advanceHead.indOut = s.indOut := rfl
@[simp] theorem State.advanceHead_faultMark :
    s.advanceHead.faultMark = s.faultMark := rfl
@[simp] theorem State.advanceHead_refusalMark :
    s.advanceHead.refusalMark = s.refusalMark := rfl
@[simp] theorem State.advanceHead_trace :
    s.advanceHead.trace = s.trace := rfl
@[simp] theorem State.advanceHead_schedule :
    s.advanceHead.schedule = s.schedule := rfl

/-! ## startDrain -/

@[simp] theorem State.startDrain_storage (w : Window) :
    (s.startDrain w).storage = s.storage := rfl
@[simp] theorem State.startDrain_head (w : Window) :
    (s.startDrain w).head = s.head := rfl
@[simp] theorem State.startDrain_tail (w : Window) :
    (s.startDrain w).tail = s.tail := rfl
@[simp] theorem State.startDrain_count (w : Window) :
    (s.startDrain w).count = s.count := rfl
@[simp] theorem State.startDrain_phase (w : Window) :
    (s.startDrain w).phase = .drain := rfl
@[simp] theorem State.startDrain_k (w : Window) :
    (s.startDrain w).k = 0 := rfl
@[simp] theorem State.startDrain_win (w : Window) :
    (s.startDrain w).win = some w := rfl
@[simp] theorem State.startDrain_report (w : Window) :
    (s.startDrain w).report = s.report := rfl
@[simp] theorem State.startDrain_ledBits (w : Window) :
    (s.startDrain w).ledBits = s.ledBits := rfl
@[simp] theorem State.startDrain_indOut (w : Window) :
    (s.startDrain w).indOut = s.indOut := rfl
@[simp] theorem State.startDrain_faultMark (w : Window) :
    (s.startDrain w).faultMark = s.faultMark := rfl
@[simp] theorem State.startDrain_refusalMark (w : Window) :
    (s.startDrain w).refusalMark = s.refusalMark := rfl
@[simp] theorem State.startDrain_trace (w : Window) :
    (s.startDrain w).trace = s.trace := rfl
@[simp] theorem State.startDrain_schedule (w : Window) :
    (s.startDrain w).schedule = s.schedule := rfl

/-! ## shiftIn -/

@[simp] theorem State.shiftIn_storage (w : Window) :
    (s.shiftIn w).storage = s.storage := rfl
@[simp] theorem State.shiftIn_head (w : Window) :
    (s.shiftIn w).head = s.head := rfl
@[simp] theorem State.shiftIn_tail (w : Window) :
    (s.shiftIn w).tail = s.tail := rfl
@[simp] theorem State.shiftIn_count (w : Window) :
    (s.shiftIn w).count = s.count := rfl
@[simp] theorem State.shiftIn_phase (w : Window) :
    (s.shiftIn w).phase = s.phase := rfl
@[simp] theorem State.shiftIn_k (w : Window) :
    (s.shiftIn w).k = s.k + 1 := rfl
@[simp] theorem State.shiftIn_win (w : Window) :
    (s.shiftIn w).win = some w := rfl
@[simp] theorem State.shiftIn_report (w : Window) :
    (s.shiftIn w).report = s.report := rfl
@[simp] theorem State.shiftIn_ledBits (w : Window) :
    (s.shiftIn w).ledBits = s.ledBits := rfl
@[simp] theorem State.shiftIn_indOut (w : Window) :
    (s.shiftIn w).indOut = s.indOut := rfl
@[simp] theorem State.shiftIn_faultMark (w : Window) :
    (s.shiftIn w).faultMark = s.faultMark := rfl
@[simp] theorem State.shiftIn_refusalMark (w : Window) :
    (s.shiftIn w).refusalMark = s.refusalMark := rfl
@[simp] theorem State.shiftIn_trace (w : Window) :
    (s.shiftIn w).trace = s.trace := rfl
@[simp] theorem State.shiftIn_schedule (w : Window) :
    (s.shiftIn w).schedule = s.schedule := rfl

/-! ## endDrain -/

@[simp] theorem State.endDrain_storage :
    s.endDrain.storage = s.storage := rfl
@[simp] theorem State.endDrain_head :
    s.endDrain.head = s.head := rfl
@[simp] theorem State.endDrain_tail :
    s.endDrain.tail = s.tail := rfl
@[simp] theorem State.endDrain_count :
    s.endDrain.count = s.count := rfl
@[simp] theorem State.endDrain_phase :
    s.endDrain.phase = .ready := rfl
@[simp] theorem State.endDrain_k :
    s.endDrain.k = s.k := rfl
@[simp] theorem State.endDrain_win :
    s.endDrain.win = none := rfl
@[simp] theorem State.endDrain_report :
    s.endDrain.report = s.report := rfl
@[simp] theorem State.endDrain_ledBits :
    s.endDrain.ledBits = s.ledBits := rfl
@[simp] theorem State.endDrain_indOut :
    s.endDrain.indOut = s.indOut := rfl
@[simp] theorem State.endDrain_faultMark :
    s.endDrain.faultMark = s.faultMark := rfl
@[simp] theorem State.endDrain_refusalMark :
    s.endDrain.refusalMark = s.refusalMark := rfl
@[simp] theorem State.endDrain_trace :
    s.endDrain.trace = s.trace := rfl
@[simp] theorem State.endDrain_schedule :
    s.endDrain.schedule = s.schedule := rfl

/-! ## setReport -/

@[simp] theorem State.setReport_storage (r : Report) :
    (s.setReport r).storage = s.storage := rfl
@[simp] theorem State.setReport_head (r : Report) :
    (s.setReport r).head = s.head := rfl
@[simp] theorem State.setReport_tail (r : Report) :
    (s.setReport r).tail = s.tail := rfl
@[simp] theorem State.setReport_count (r : Report) :
    (s.setReport r).count = s.count := rfl
@[simp] theorem State.setReport_phase (r : Report) :
    (s.setReport r).phase = s.phase := rfl
@[simp] theorem State.setReport_k (r : Report) :
    (s.setReport r).k = s.k := rfl
@[simp] theorem State.setReport_win (r : Report) :
    (s.setReport r).win = s.win := rfl
@[simp] theorem State.setReport_report (r : Report) :
    (s.setReport r).report = r := rfl
@[simp] theorem State.setReport_ledBits (r : Report) :
    (s.setReport r).ledBits = s.ledBits := rfl
@[simp] theorem State.setReport_indOut (r : Report) :
    (s.setReport r).indOut = s.indOut := rfl
@[simp] theorem State.setReport_faultMark (r : Report) :
    (s.setReport r).faultMark = s.faultMark := rfl
@[simp] theorem State.setReport_refusalMark (r : Report) :
    (s.setReport r).refusalMark = s.refusalMark := rfl
@[simp] theorem State.setReport_trace (r : Report) :
    (s.setReport r).trace = s.trace := rfl
@[simp] theorem State.setReport_schedule (r : Report) :
    (s.setReport r).schedule = s.schedule := rfl

/-! ## setIndicator -/

@[simp] theorem State.setIndicator_storage (b : Bool) :
    (s.setIndicator b).storage = s.storage := rfl
@[simp] theorem State.setIndicator_head (b : Bool) :
    (s.setIndicator b).head = s.head := rfl
@[simp] theorem State.setIndicator_tail (b : Bool) :
    (s.setIndicator b).tail = s.tail := rfl
@[simp] theorem State.setIndicator_count (b : Bool) :
    (s.setIndicator b).count = s.count := rfl
@[simp] theorem State.setIndicator_phase (b : Bool) :
    (s.setIndicator b).phase = s.phase := rfl
@[simp] theorem State.setIndicator_k (b : Bool) :
    (s.setIndicator b).k = s.k := rfl
@[simp] theorem State.setIndicator_win (b : Bool) :
    (s.setIndicator b).win = s.win := rfl
@[simp] theorem State.setIndicator_report (b : Bool) :
    (s.setIndicator b).report = s.report := rfl
@[simp] theorem State.setIndicator_ledBits (b : Bool) :
    (s.setIndicator b).ledBits = s.ledBits := rfl
@[simp] theorem State.setIndicator_indOut (b : Bool) :
    (s.setIndicator b).indOut = b := rfl
@[simp] theorem State.setIndicator_faultMark (b : Bool) :
    (s.setIndicator b).faultMark = s.faultMark := rfl
@[simp] theorem State.setIndicator_refusalMark (b : Bool) :
    (s.setIndicator b).refusalMark = s.refusalMark := rfl
@[simp] theorem State.setIndicator_trace (b : Bool) :
    (s.setIndicator b).trace = s.trace := rfl
@[simp] theorem State.setIndicator_schedule (b : Bool) :
    (s.setIndicator b).schedule = s.schedule := rfl

/-! ## setLed -/

@[simp] theorem State.setLed_storage (v : Byte) :
    (s.setLed v).storage = s.storage := rfl
@[simp] theorem State.setLed_head (v : Byte) :
    (s.setLed v).head = s.head := rfl
@[simp] theorem State.setLed_tail (v : Byte) :
    (s.setLed v).tail = s.tail := rfl
@[simp] theorem State.setLed_count (v : Byte) :
    (s.setLed v).count = s.count := rfl
@[simp] theorem State.setLed_phase (v : Byte) :
    (s.setLed v).phase = s.phase := rfl
@[simp] theorem State.setLed_k (v : Byte) :
    (s.setLed v).k = s.k := rfl
@[simp] theorem State.setLed_win (v : Byte) :
    (s.setLed v).win = s.win := rfl
@[simp] theorem State.setLed_report (v : Byte) :
    (s.setLed v).report = s.report := rfl
@[simp] theorem State.setLed_ledBits (v : Byte) :
    (s.setLed v).ledBits = v := rfl
@[simp] theorem State.setLed_indOut (v : Byte) :
    (s.setLed v).indOut = s.indOut := rfl
@[simp] theorem State.setLed_faultMark (v : Byte) :
    (s.setLed v).faultMark = s.faultMark := rfl
@[simp] theorem State.setLed_refusalMark (v : Byte) :
    (s.setLed v).refusalMark = s.refusalMark := rfl
@[simp] theorem State.setLed_trace (v : Byte) :
    (s.setLed v).trace = s.trace := rfl
@[simp] theorem State.setLed_schedule (v : Byte) :
    (s.setLed v).schedule = s.schedule := rfl

/-! ## idleFallback -/

@[simp] theorem State.idleFallback_storage :
    s.idleFallback.storage = s.storage := rfl
@[simp] theorem State.idleFallback_head :
    s.idleFallback.head = s.head := rfl
@[simp] theorem State.idleFallback_tail :
    s.idleFallback.tail = s.tail := rfl
@[simp] theorem State.idleFallback_count :
    s.idleFallback.count = s.count := rfl
@[simp] theorem State.idleFallback_phase :
    s.idleFallback.phase = s.phase := rfl
@[simp] theorem State.idleFallback_k :
    s.idleFallback.k = s.k := rfl
@[simp] theorem State.idleFallback_win :
    s.idleFallback.win = s.win := rfl
@[simp] theorem State.idleFallback_report :
    s.idleFallback.report = idleReport := rfl
@[simp] theorem State.idleFallback_ledBits :
    s.idleFallback.ledBits = s.ledBits := rfl
@[simp] theorem State.idleFallback_indOut :
    s.idleFallback.indOut = false := rfl
@[simp] theorem State.idleFallback_faultMark :
    s.idleFallback.faultMark = s.faultMark := rfl
@[simp] theorem State.idleFallback_refusalMark :
    s.idleFallback.refusalMark = s.refusalMark := rfl
@[simp] theorem State.idleFallback_trace :
    s.idleFallback.trace = s.trace := rfl
@[simp] theorem State.idleFallback_schedule :
    s.idleFallback.schedule = s.schedule := rfl

/-! ## clear -/

@[simp] theorem State.clear_storage :
    s.clear.storage = s.storage := rfl
@[simp] theorem State.clear_head :
    s.clear.head = 0 := rfl
@[simp] theorem State.clear_tail :
    s.clear.tail = 0 := rfl
@[simp] theorem State.clear_count :
    s.clear.count = 0 := rfl
@[simp] theorem State.clear_phase :
    s.clear.phase = .ready := rfl
@[simp] theorem State.clear_k :
    s.clear.k = 0 := rfl
@[simp] theorem State.clear_win :
    s.clear.win = none := rfl
@[simp] theorem State.clear_report :
    s.clear.report = idleReport := rfl
@[simp] theorem State.clear_ledBits :
    s.clear.ledBits = 0x00 := rfl
@[simp] theorem State.clear_indOut :
    s.clear.indOut = false := rfl
@[simp] theorem State.clear_faultMark :
    s.clear.faultMark = s.faultMark := rfl
@[simp] theorem State.clear_refusalMark :
    s.clear.refusalMark = s.refusalMark := rfl
@[simp] theorem State.clear_trace :
    s.clear.trace = s.trace := rfl
@[simp] theorem State.clear_schedule :
    s.clear.schedule = s.schedule := rfl

/-! ## present -/

@[simp] theorem State.present_storage (t : Turn) :
    (s.present t).storage = s.storage := rfl
@[simp] theorem State.present_head (t : Turn) :
    (s.present t).head = s.head := rfl
@[simp] theorem State.present_tail (t : Turn) :
    (s.present t).tail = s.tail := rfl
@[simp] theorem State.present_count (t : Turn) :
    (s.present t).count = s.count := rfl
@[simp] theorem State.present_phase (t : Turn) :
    (s.present t).phase = s.phase := rfl
@[simp] theorem State.present_k (t : Turn) :
    (s.present t).k = s.k := rfl
@[simp] theorem State.present_win (t : Turn) :
    (s.present t).win = s.win := rfl
@[simp] theorem State.present_report (t : Turn) :
    (s.present t).report = s.report := rfl
@[simp] theorem State.present_ledBits (t : Turn) :
    (s.present t).ledBits = s.ledBits := rfl
@[simp] theorem State.present_indOut (t : Turn) :
    (s.present t).indOut = s.indOut := rfl
@[simp] theorem State.present_faultMark (t : Turn) :
    (s.present t).faultMark = s.faultMark := rfl
@[simp] theorem State.present_refusalMark (t : Turn) :
    (s.present t).refusalMark = s.refusalMark := rfl
@[simp] theorem State.present_trace (t : Turn) :
    (s.present t).trace = s.trace := rfl
@[simp] theorem State.present_schedule (t : Turn) :
    (s.present t).schedule = t :: s.schedule := rfl

end Sys2Proof.Machine
end

