-- ==== Sys2Proof/Laws/Memory.lean ====
section
/-! SUPPORT. The laws of the storage: a read after a write, and the canonical form, which every memory
operation keeps and in which equal contents are equal lists. -/

namespace Sys2Proof.Machine

theorem Memory.wfFrom_cons (lo a : Nat) (b : Byte) (m : Memory) :
    Memory.wfFrom lo ((a, b) :: m) = true ↔
      lo ≤ a ∧ a < Config.C ∧ b ≠ Memory.blank ∧ Memory.wfFrom (a + 1) m = true := by
  simp [Memory.wfFrom, and_assoc]

theorem Memory.wfFrom_mono {lo lo' : Nat} (h : lo' ≤ lo) {m : Memory}
    (hm : Memory.wfFrom lo m = true) : Memory.wfFrom lo' m = true := by
  cases m with
  | nil => rfl
  | cons c m =>
    obtain ⟨a, b⟩ := c
    rw [Memory.wfFrom_cons] at hm ⊢
    exact ⟨h.trans hm.1, hm.2⟩

/-- Below the first slot a canonical list may hold, every slot reads as blank. -/
theorem Memory.read_below {lo : Nat} {m : Memory} (hm : Memory.wfFrom lo m = true) {i : Nat}
    (hi : i < lo) : m.read i = Memory.blank := by
  induction m generalizing lo with
  | nil => rfl
  | cons c m ih =>
    obtain ⟨a, b⟩ := c
    rw [Memory.wfFrom_cons] at hm
    have : a ≠ i := by omega
    simp only [Memory.read, if_neg this]
    exact ih hm.2.2.2 (by omega)

/-- A read of the slot just written gives the byte written. -/
theorem Memory.read_write_same {lo : Nat} {m : Memory} (hm : Memory.wfFrom lo m = true) (i : Nat)
    (v : Byte) : (m.write i v).read i = v := by
  induction m generalizing lo with
  | nil => by_cases hv : v = Memory.blank <;> simp [Memory.write, Memory.read, hv]
  | cons c m ih =>
    obtain ⟨a, b⟩ := c
    have hm' := (Memory.wfFrom_cons lo a b m).1 hm
    simp only [Memory.write]
    split
    · split
      · next h hv =>
        rw [hv]
        exact Memory.read_below (lo := a) ((Memory.wfFrom_cons a a b m).2 ⟨le_rfl, hm'.2⟩) h
      · simp [Memory.read]
    · split
      · split
        · next h hv =>
          rw [hv]
          exact Memory.read_below hm'.2.2.2 (by omega)
        · simp [Memory.read]
      · next h =>
        have : a ≠ i := fun e => h e.symm
        simp only [Memory.read, if_neg this]
        exact ih hm'.2.2.2

/-- A write leaves every other slot as it was. -/
theorem Memory.read_write_other {lo : Nat} {m : Memory} (hm : Memory.wfFrom lo m = true) {i j : Nat}
    (hij : j ≠ i) (v : Byte) : (m.write i v).read j = m.read j := by
  induction m generalizing lo with
  | nil => by_cases hv : v = Memory.blank <;> simp [Memory.write, Memory.read, hv, hij.symm]
  | cons c m ih =>
    obtain ⟨a, b⟩ := c
    have hm' := (Memory.wfFrom_cons lo a b m).1 hm
    simp only [Memory.write]
    split
    · split
      · rfl
      · simp [Memory.read, hij.symm]
    · split
      · next h =>
        subst h
        split
        · simp [Memory.read, hij.symm]
        · simp [Memory.read, hij.symm]
      · simp only [Memory.read]
        split
        · rfl
        · exact ih hm'.2.2.2

theorem Memory.wfFrom_write {lo : Nat} {m : Memory} (hm : Memory.wfFrom lo m = true) {i : Nat}
    (hlo : lo ≤ i) (hi : i < Config.C) (v : Byte) : Memory.wfFrom lo (m.write i v) = true := by
  induction m generalizing lo with
  | nil =>
    by_cases hv : v = Memory.blank
    · simp [Memory.write, hv, Memory.wfFrom]
    · simp [Memory.write, hv, Memory.wfFrom, hlo, hi]
  | cons c m ih =>
    obtain ⟨a, b⟩ := c
    have hm' := (Memory.wfFrom_cons lo a b m).1 hm
    simp only [Memory.write]
    split
    · split
      · exact hm
      · next h hv =>
        rw [Memory.wfFrom_cons, Memory.wfFrom_cons]
        exact ⟨hlo, hi, hv, by omega, hm'.2⟩
    · split
      · next h =>
        subst h
        split
        · exact Memory.wfFrom_mono (by omega) hm'.2.2.2
        · next hv =>
          rw [Memory.wfFrom_cons]
          exact ⟨hlo, hi, hv, hm'.2.2.2⟩
      · rw [Memory.wfFrom_cons]
        exact ⟨hm'.1, hm'.2.1, hm'.2.2.1, ih hm'.2.2.2 (by omega)⟩

/-- A write to a slot of the storage keeps the canonical form. -/
theorem Memory.wf_write {m : Memory} (hm : m.wf = true) {i : Nat} (hi : i < Config.C) (v : Byte) :
    (m.write i v).wf = true :=
  Memory.wfFrom_write hm (Nat.zero_le i) hi v

theorem Memory.read_write {m : Memory} (hm : m.wf = true) (i j : Nat) (v : Byte) :
    (m.write i v).read j = if j = i then v else m.read j := by
  split
  · next h => rw [h]; exact Memory.read_write_same hm i v
  · next h => exact Memory.read_write_other hm h v

theorem Memory.wf_nil : Memory.wf [] = true := rfl

/-- In canonical form, equal contents are equal lists. -/
theorem Memory.ext_of_wfFrom {lo : Nat} {m n : Memory} (hm : Memory.wfFrom lo m = true)
    (hn : Memory.wfFrom lo n = true) (h : ∀ i, m.read i = n.read i) : m = n := by
  induction m generalizing lo n with
  | nil =>
    cases n with
    | nil => rfl
    | cons c n =>
      obtain ⟨a, b⟩ := c
      have hn' := (Memory.wfFrom_cons lo a b n).1 hn
      have := h a
      simp [Memory.read] at this
      exact absurd this.symm hn'.2.2.1
  | cons c m ih =>
    obtain ⟨a, b⟩ := c
    have hm' := (Memory.wfFrom_cons lo a b m).1 hm
    cases n with
    | nil =>
      have := h a
      simp [Memory.read] at this
      exact absurd this hm'.2.2.1
    | cons d n =>
      obtain ⟨a', b'⟩ := d
      have hn' := (Memory.wfFrom_cons lo a' b' n).1 hn
      have haa : a = a' := by
        rcases Nat.lt_trichotomy a a' with hlt | heq | hlt
        · have h1 := h a
          have h2 : Memory.read ((a', b') :: n) a = Memory.blank :=
            Memory.read_below (lo := a') ((Memory.wfFrom_cons a' a' b' n).2 ⟨le_rfl, hn'.2⟩) hlt
          rw [h2] at h1
          simp [Memory.read] at h1
          exact absurd h1 hm'.2.2.1
        · exact heq
        · have h1 := h a'
          have h2 : Memory.read ((a, b) :: m) a' = Memory.blank :=
            Memory.read_below (lo := a) ((Memory.wfFrom_cons a a b m).2 ⟨le_rfl, hm'.2⟩) hlt
          rw [h2] at h1
          simp [Memory.read] at h1
          exact absurd h1.symm hn'.2.2.1
      subst haa
      have hb : b = b' := by simpa [Memory.read] using h a
      subst hb
      have : m = n := by
        refine ih hm'.2.2.2 hn'.2.2.2 fun i => ?_
        by_cases hi : a = i
        · subst hi
          rw [Memory.read_below hm'.2.2.2 (Nat.lt_succ_self a),
            Memory.read_below hn'.2.2.2 (Nat.lt_succ_self a)]
        · simpa [Memory.read, hi] using h i
      rw [this]

/-- In canonical form, equal contents are equal lists. -/
theorem Memory.ext_of_wf {m n : Memory} (hm : m.wf = true) (hn : n.wf = true)
    (h : ∀ i, m.read i = n.read i) : m = n :=
  Memory.ext_of_wfFrom hm hn h

end Sys2Proof.Machine
end

