-- ==== Sys2Proof/Laws/Ops.lean ====
section
/-! SUPPORT. For each shared operation, one lemma that says all it can do, and one that says when it
does it; the equations of the step. -/

namespace Sys2Proof.Machine

/-! ## Operands -/

theorem nextIndex_toNat (i : BitVec 8) : (nextIndex i).toNat = (i.toNat + 1) % Config.C := by
  have : (i.toNat + 1) % Config.C < Config.C := Nat.mod_lt _ (by decide)
  simp only [nextIndex, BitVec.toNat_ofNat]
  exact Nat.mod_eq_of_lt (lt_trans this (by decide))

theorem nextIndex_lt (i : BitVec 8) : (nextIndex i).toNat < Config.C := by
  rw [nextIndex_toNat]
  exact Nat.mod_lt _ (by decide)

/-- The advance always moves an index of the storage. -/
theorem nextIndex_ne (i : BitVec 8) : nextIndex i ≠ i := by
  intro he
  have h1 := congrArg BitVec.toNat he
  have h2 := i.isLt
  rw [nextIndex_toNat] at h1
  simp only [Config.C] at h1
  omega

theorem isSlot_iff (i : BitVec 8) : isSlot i = true ↔ i.toNat < Config.C := by simp [isSlot]

theorem shiftWindow_get_lt (w : Window) (b : Byte) {i : Nat} (h : i + 1 < Config.W) :
    (shiftWindow w b)[i]'(by omega) = w[i + 1] := by
  simp only [shiftWindow, Vector.getElem_ofFn, dif_pos h]

theorem shiftWindow_get_last (w : Window) (b : Byte) :
    (shiftWindow w b)[9]'(by decide) = b := by
  simp [shiftWindow]

theorem payloadOf_get (w : Window) {i : Nat} (h : i < Config.RLEN) :
    (payloadOf w)[i] = w[i + 2]'(by have : i < 8 := h; show i + 2 < 10; omega) := by
  simp only [payloadOf, Vector.getElem_ofFn]

/-! ## Flags -/

theorem State.empty_iff (s : State) : s.empty = true ↔ s.count = 0 := by
  simp only [State.empty, decide_eq_true_eq]
  exact ⟨fun h => BitVec.eq_of_toNat_eq h, fun h => by rw [h]; rfl⟩

theorem State.empty_false_iff (s : State) : s.empty = false ↔ s.count ≠ 0 := by
  rw [← Bool.not_eq_true, State.empty_iff]

theorem State.full_iff (s : State) : s.full = true ↔ s.count.toNat = Config.C := by
  simp [State.full]

theorem State.avail_iff (s : State) : s.avail = true ↔ Config.T ≤ s.count.toNat := by
  simp [State.avail]

/-! ## Storage access -/

theorem memRead_of_lt (s : State) {i : BitVec 8} (h : i.toNat < Config.C) :
    memRead s i = .ok (s.storage.read i.toNat) := by
  simp only [memRead, (isSlot_iff i).2 h, if_true]

theorem memRead_ok {s : State} {i : BitVec 8} {b : Byte} (h : memRead s i = .ok b) :
    i.toNat < Config.C ∧ b = s.storage.read i.toNat := by
  simp only [memRead] at h
  split at h
  · next hi => exact ⟨(isSlot_iff i).1 hi, (Except.ok.inj h).symm⟩
  · cases h

theorem memWrite_of_lt (s : State) {i : BitVec 8} (h : i.toNat < Config.C) (v : Byte) :
    memWrite s i v = .ok (s.setStorage (s.storage.write i.toNat v)) := by
  simp only [memWrite, (isSlot_iff i).2 h, if_true]

theorem memWrite_ok {s t : State} {i : BitVec 8} {v : Byte} (h : memWrite s i v = .ok t) :
    i.toNat < Config.C ∧ t = s.setStorage (s.storage.write i.toNat v) := by
  simp only [memWrite] at h
  split at h
  · next hi => exact ⟨(isSlot_iff i).1 hi, (Except.ok.inj h).symm⟩
  · cases h

/-! ## RingBuffer primitives -/

theorem rbPush_of_lt (s : State) (d : Byte) (h : s.tail.toNat < Config.C) :
    rbPush s d = .ok (s.setStorage (s.storage.write s.tail.toNat d)).advanceTail := by
  simp only [rbPush, memWrite_of_lt s h]

theorem rbPush_ok {s t : State} {d : Byte} (h : rbPush s d = .ok t) :
    s.tail.toNat < Config.C ∧
      t = (s.setStorage (s.storage.write s.tail.toNat d)).advanceTail := by
  simp only [rbPush] at h
  split at h
  · cases h
  · next s' hw =>
    obtain ⟨hi, rfl⟩ := memWrite_ok hw
    exact ⟨hi, (Except.ok.inj h).symm⟩

theorem rbPop_of_pos (s : State) (hc : s.count ≠ 0) (hh : s.head.toNat < Config.C) :
    rbPop s = .ok (s.storage.read s.head.toNat, s.advanceHead) := by
  simp only [rbPop, (State.empty_false_iff s).2 hc, memRead_of_lt s hh, Bool.false_eq_true, if_false]

theorem rbPop_of_empty (s : State) (hc : s.count = 0) : rbPop s = .error (raiseRemoveEmpty s) := by
  simp only [rbPop, (State.empty_iff s).2 hc, if_true]

theorem rbPop_ok {s t : State} {b : Byte} (h : rbPop s = .ok (b, t)) :
    s.count ≠ 0 ∧ s.head.toNat < Config.C ∧ b = s.storage.read s.head.toNat ∧ t = s.advanceHead := by
  simp only [rbPop] at h
  split at h
  · cases h
  · next he =>
    split at h
    · cases h
    · next b' hr =>
      obtain ⟨hi, rfl⟩ := memRead_ok hr
      obtain ⟨rfl, rfl⟩ := Prod.mk.inj (Except.ok.inj h)
      exact ⟨(State.empty_false_iff s).1 (by simpa using he), hi, rfl, rfl⟩

/-! ## DSTEP -/

/-- What the marker test leaves: a match, the end of the batch, or a drain that goes on. -/
theorem testWindow_cases (s : State) (w : Window) :
    (isMarker w = true ∧
        testWindow s w = ((s.setReport (payloadOf w)).endDrain).emit (.cycle (.matched s.k))) ∨
    (isMarker w = false ∧ s.k.toNat = Config.B ∧
        testWindow s w = s.endDrain.emit (.cycle .noMatch)) ∨
    (isMarker w = false ∧ s.k.toNat ≠ Config.B ∧ testWindow s w = s) := by
  simp only [testWindow]
  by_cases hm : isMarker w = true
  · exact .inl ⟨hm, by simp only [hm, if_true]⟩
  · have hm' : isMarker w = false := by simpa using hm
    by_cases hk : s.k.toNat = Config.B
    · exact .inr (.inl ⟨hm', hk, by simp only [hm', hk, Bool.false_eq_true, if_false, if_true]⟩)
    · exact .inr (.inr ⟨hm', hk, by simp only [hm', if_neg hk, Bool.false_eq_true, if_false]⟩)

theorem dstep_of (s : State) {w : Window} (hc : s.count ≠ 0) (hh : s.head.toNat < Config.C)
    (hw : s.win = some w) :
    dstep s =
      .next (testWindow (s.advanceHead.shiftIn (shiftWindow w (s.storage.read s.head.toNat)))
        (shiftWindow w (s.storage.read s.head.toNat))) := by
  simp only [dstep, rbPop_of_pos s hc hh, State.advanceHead_win, hw]

theorem dstep_next {s t : State} (h : dstep s = .next t) :
    ∃ w, s.count ≠ 0 ∧ s.head.toNat < Config.C ∧ s.win = some w ∧
      t = testWindow (s.advanceHead.shiftIn (shiftWindow w (s.storage.read s.head.toNat)))
        (shiftWindow w (s.storage.read s.head.toNat)) := by
  simp only [dstep] at h
  split at h
  · cases h
  · next b s' hp =>
    obtain ⟨hc, hh, rfl, rfl⟩ := rbPop_ok hp
    split at h
    · cases h
    · next w hw =>
      rw [State.advanceHead_win] at hw
      exact ⟨w, hc, hh, hw, (Host.Outcome.next.inj h).symm⟩

/-- A DSTEP is never a refusal. -/
theorem dstep_not_refused (s : State) (r : Refusal) : dstep s ≠ .refused r := by
  simp only [dstep]
  split
  · simp
  · split <;> simp

/-- What the marker test does does not depend on the storage, the tail, the count, the trace so far or the
schedule: the same phase, window, report and new events come of it whatever these are. -/
theorem testWindow_congr (s : State) (w : Window) :
    ∃ (ph : Phase) (wn : Option Window) (rp : Report) (es : List Event),
      ∀ (m : Memory) (tl c : BitVec 8) (tr : List Event) (sc : List Turn),
        testWindow { s with storage := m, tail := tl, count := c, trace := tr, schedule := sc } w =
          { s with
            storage := m, tail := tl, count := c, trace := tr ++ es, schedule := sc, phase := ph,
            win := wn, report := rp } := by
  by_cases hm : isMarker w = true
  · exact ⟨.ready, none, payloadOf w, [.cycle (.matched s.k)], fun _ _ _ _ _ => by
      simp only [testWindow, hm, if_true]; rfl⟩
  · by_cases hk : s.k.toNat = Config.B
    · exact ⟨.ready, none, s.report, [.cycle .noMatch], fun _ _ _ _ _ => by
        simp only [testWindow, hm, hk, Bool.false_eq_true, if_false, if_true]; rfl⟩
    · exact ⟨s.phase, s.win, s.report, [], fun _ _ _ tr _ => by
        simp only [testWindow, hm, hk, Bool.false_eq_true, if_false, List.append_nil]⟩

/-- The pieces of state no marker test writes. -/
theorem testWindow_frame (s : State) (w : Window) :
    (testWindow s w).storage = s.storage ∧ (testWindow s w).head = s.head ∧
    (testWindow s w).tail = s.tail ∧ (testWindow s w).count = s.count ∧ (testWindow s w).k = s.k ∧
    (testWindow s w).ledBits = s.ledBits ∧ (testWindow s w).indOut = s.indOut ∧
    (testWindow s w).faultMark = s.faultMark ∧ (testWindow s w).refusalMark = s.refusalMark ∧
    (testWindow s w).schedule = s.schedule := by
  rcases testWindow_cases s w with ⟨-, h⟩ | ⟨-, -, h⟩ | ⟨-, -, h⟩ <;> simp [h]

/-! ## Consumer commands -/

theorem consumerCommand_ready {s : State} (h : s.phase = .ready) (body : State → Result) :
    consumerCommand s body = body s := by
  simp only [consumerCommand, h]

theorem consumerCommand_drain {s : State} (h : s.phase = .drain) (body : State → Result) :
    consumerCommand s body = dstep s := by
  simp only [consumerCommand, h, holdDrainBusy]

/-! ## The step -/

theorem step_of_fault {s : State} {m : FaultMark} (h : s.faultMark = some m) :
    step s = .fault (.quiescent m) := by
  simp only [step, takeTurn, h]

theorem step_of_command {s : State} (h : s.faultMark = none) {a : Agent} {w : Word}
    {rest : List Turn} (hs : s.schedule = .command a w :: rest) : step s = issue s a w := by
  simp only [step, takeTurn, h, hs]

theorem step_of_dstep {s : State} (h : s.faultMark = none) {rest : List Turn}
    (hs : s.schedule = .dstep :: rest) : step s = dstepTurn s := by
  simp only [step, takeTurn, h, hs]

theorem step_of_drain {s : State} (h : s.faultMark = none) {rest : List Turn}
    (hs : s.schedule = .drain :: rest) : step s = drainTurn s := by
  simp only [step, takeTurn, h, hs]

theorem step_of_nil {s : State} (h : s.faultMark = none) (hs : s.schedule = []) :
    step s = idleTurn s := by
  simp only [step, takeTurn, h, hs]

/-- The one step of each kind there is: stopped, held, refused, executed, DSTEP, or idle. -/
theorem step_next_cases {s t : State} (h : step s = .next t) :
    s.faultMark = none ∧
    ((s.schedule = [] ∧ s.phase = .ready ∧ t = s) ∨
     (∃ a w rest reason, s.schedule = .command a w :: rest ∧ isHeld s a = false ∧
        decode a w = .error reason ∧ t = refuseWord s reason a w) ∨
     (∃ a w rest i, s.schedule = .command a w :: rest ∧ isHeld s a = false ∧
        decode a w = .ok i ∧ exec i s = .next t) ∨
     (s.phase = .drain ∧ dstep s = .next t) ∨
     (∃ rest, s.schedule = .dstep :: rest ∧ s.phase = .drain ∧ dstep s.spendTurn = .next t) ∨
     (∃ rest, s.schedule = .drain :: rest ∧ s.phase = .ready ∧ t = s.spendTurn) ∨
     (∃ rest s', s.schedule = .drain :: rest ∧ s.phase = .drain ∧ dstep s = .next s' ∧
        s'.phase = .ready ∧ t = s'.spendTurn)) := by
  cases hf : s.faultMark with
  | some m => rw [step_of_fault hf] at h; cases h
  | none =>
    refine ⟨rfl, ?_⟩
    cases hs : s.schedule with
    | nil =>
      rw [step_of_nil hf hs] at h
      simp only [idleTurn] at h
      split at h
      · next hp => exact .inr (.inr (.inr (.inl ⟨hp, h⟩)))
      · next hp => exact .inl ⟨rfl, hp, (Host.Outcome.next.inj h).symm⟩
    | cons turn rest =>
      cases turn with
      | command a w =>
        rw [step_of_command hf hs] at h
        simp only [issue] at h
        split at h
        · next hh =>
          simp only [isHeld, decide_eq_true_eq] at hh
          exact .inr (.inr (.inr (.inl ⟨hh.2, h⟩)))
        · next hh =>
          have hh' : isHeld s a = false := by simpa using hh
          split at h
          · next reason hd =>
            exact .inr (.inl ⟨a, w, rest, reason, rfl, hh', hd, (Host.Outcome.next.inj h).symm⟩)
          · next i hd => exact .inr (.inr (.inl ⟨a, w, rest, i, rfl, hh', hd, h⟩))
      | dstep =>
        rw [step_of_dstep hf hs] at h
        simp only [dstepTurn] at h
        split at h
        · next hp => exact .inr (.inr (.inr (.inr (.inl ⟨rest, rfl, hp, h⟩))))
        · cases h
      | drain =>
        rw [step_of_drain hf hs] at h
        simp only [drainTurn] at h
        split at h
        · next hp =>
          exact .inr (.inr (.inr (.inr (.inr (.inl
            ⟨rest, rfl, hp, (Host.Outcome.next.inj h).symm⟩)))))
        · next hp =>
          split at h
          · next s' hd =>
            split at h
            · next hr =>
              exact .inr (.inr (.inr (.inr (.inr (.inr
                ⟨rest, s', rfl, hp, hd, hr, (Host.Outcome.next.inj h).symm⟩)))))
            · rw [Host.Outcome.next.inj h] at hd
              exact .inr (.inr (.inr (.inl ⟨hp, hd⟩)))
          · cases h
          · cases h

end Sys2Proof.Machine
end

