-- ==== Sys2Proof/Laws/Queue.lean ====
section
/-! SUPPORT. The queue Q (10_state.md R27) under the RingBuffer's two primitives. -/

namespace Sys2Proof.Machine

/-- The queue depends on the storage, head and count alone. -/
theorem State.queue_congr {s t : State} (h1 : s.storage = t.storage) (h2 : s.head = t.head)
    (h3 : s.count = t.count) : s.queue = t.queue := by
  simp only [State.queue, h1, h2, h3]

@[simp] theorem State.queue_length (s : State) : s.queue.length = s.count.toNat := by
  simp [State.queue]

theorem State.queue_getElem (s : State) {i : Nat} (h : i < s.queue.length) :
    s.queue[i] = s.storage.read ((s.head.toNat + i) % Config.C) := by
  simp [State.queue]

theorem State.queue_of_count_zero {s : State} (h : s.count = 0) : s.queue = [] := by
  simp [State.queue, h]

theorem count_succ {c : BitVec 8} (h : c.toNat ≠ Config.C) : (c + 1).toNat = c.toNat + 1 := by
  have := c.isLt
  simp only [Config.C] at h
  rw [BitVec.toNat_add]
  simp
  omega

theorem count_pred {c : BitVec 8} (h : c ≠ 0) : (c - 1).toNat = c.toNat - 1 ∧ 1 ≤ c.toNat := by
  have h1 : c.toNat ≠ 0 := fun e => h (BitVec.eq_of_toNat_eq e)
  have := c.isLt
  rw [BitVec.toNat_sub]
  simp
  omega

/-- A removal takes the oldest byte of the queue. -/
theorem State.queue_advanceHead (s : State) (hc : s.count ≠ 0) (hh : s.head.toNat < Config.C) :
    s.queue = s.storage.read s.head.toNat :: s.advanceHead.queue := by
  obtain ⟨hp, hpos⟩ := count_pred hc
  apply List.ext_getElem
  · simp only [State.queue_length, List.length_cons, State.advanceHead_count, hp]; omega
  · intro i h1 h2
    rw [State.queue_getElem]
    cases i with
    | zero => simp [Nat.mod_eq_of_lt hh]
    | succ i =>
      rw [List.getElem_cons_succ, State.queue_getElem]
      simp only [State.advanceHead_storage, State.advanceHead_head, nextIndex_toNat]
      congr 1
      simp only [Config.C]
      omega

/-- A stored byte becomes the newest of the queue. -/
theorem State.queue_store (s : State) (d : Byte) (hwf : s.storage.wf = true)
    (hc : s.count.toNat ≠ Config.C) (ht : s.tail.toNat = (s.head.toNat + s.count.toNat) % Config.C) :
    (s.setStorage (s.storage.write s.tail.toNat d)).advanceTail.queue = s.queue ++ [d] := by
  have hs := count_succ hc
  have hlt := s.count.isLt
  apply List.ext_getElem
  · simp only [State.queue_length, List.length_append, List.length_singleton,
      State.advanceTail_count, State.setStorage_count, hs]
  · intro i h1 h2
    simp only [State.queue_length, State.advanceTail_count, State.setStorage_count, hs] at h1
    rw [State.queue_getElem]
    simp only [State.advanceTail_storage, State.advanceTail_head, State.setStorage_storage,
      State.setStorage_head, Memory.read_write hwf]
    by_cases hi : i < s.queue.length
    · rw [List.getElem_append_left hi, State.queue_getElem]
      rw [State.queue_length] at hi
      rw [if_neg]
      rw [ht]
      simp only [Config.C] at hc ⊢
      omega
    · rw [List.getElem_append_right (by omega)]
      rw [State.queue_length] at hi
      have : i = s.count.toNat := by omega
      subst this
      simp [ht]

end Sys2Proof.Machine
end

