-- ==== Sys2Proof/Laws/Exec.lean ====
section
/-! SUPPORT. What every operation can do, said once: the inversion lemmas of the meanings and of `exec`,
and what a DSTEP leaves alone. -/

namespace Sys2Proof.Machine

/-- The pieces of state no DSTEP writes; the trace grows at its end. -/
theorem dstep_frame {s t : State} (h : dstep s = .next t) :
    t.storage = s.storage ∧ t.tail = s.tail ∧ t.ledBits = s.ledBits ∧ t.indOut = s.indOut ∧
    t.faultMark = s.faultMark ∧ t.refusalMark = s.refusalMark ∧ t.schedule = s.schedule ∧
    ∃ es, t.trace = s.trace ++ es := by
  obtain ⟨w, hc, hh, hw, rfl⟩ := dstep_next h
  obtain ⟨h1, -, h3, -, -, h6, h7, h8, h9, h10⟩ := testWindow_frame
    (s.advanceHead.shiftIn (shiftWindow w (s.storage.read s.head.toNat)))
    (shiftWindow w (s.storage.read s.head.toNat))
  refine ⟨h1, h3, h6, h7, h8, h9, h10, ?_⟩
  rcases testWindow_cases (s.advanceHead.shiftIn (shiftWindow w (s.storage.read s.head.toNat)))
    (shiftWindow w (s.storage.read s.head.toNat)) with ⟨-, h⟩ | ⟨-, -, h⟩ | ⟨-, -, h⟩ <;> simp [h]

/-- A consumer command is a DSTEP in a drain, and has its effect otherwise. -/
theorem consumerCommand_next {s t : State} {body : State → Result}
    (h : consumerCommand s body = .next t) :
    (s.phase = .drain ∧ dstep s = .next t) ∨ (s.phase = .ready ∧ body s = .next t) := by
  cases hp : s.phase with
  | drain => rw [consumerCommand_drain hp] at h; exact .inl ⟨rfl, h⟩
  | ready => rw [consumerCommand_ready hp] at h; exact .inr ⟨rfl, h⟩

theorem execInsert_next {d : Byte} {s t : State} (h : execInsert d s = .next t) :
    (s.full = true ∧ t = ((s.respond .insert (.bit 0#1)).emit (.drop d)).spendTurn) ∨
    (s.full = false ∧ s.tail.toNat < Config.C ∧
      t = ((s.setStorage (s.storage.write s.tail.toNat d)).advanceTail.respond .insert
        (.bit 1#1)).spendTurn) := by
  simp only [execInsert] at h
  split at h
  · next hf => exact .inl ⟨hf, (Host.Outcome.next.inj h).symm⟩
  · next hf =>
    split at h
    · cases h
    · next s' hp =>
      obtain ⟨ht, rfl⟩ := rbPush_ok hp
      exact .inr ⟨by simpa using hf, ht, (Host.Outcome.next.inj h).symm⟩

theorem removeBody_next {s t : State} (h : removeBody s = .next t) :
    s.count ≠ 0 ∧ s.head.toNat < Config.C ∧
      t = (s.advanceHead.respond .remove (.byte (s.storage.read s.head.toNat))).spendTurn := by
  simp only [removeBody] at h
  split at h
  · cases h
  · next b s' hp =>
    obtain ⟨hc, hh, rfl, rfl⟩ := rbPop_ok hp
    exact ⟨hc, hh, (Host.Outcome.next.inj h).symm⟩

theorem cycleBody_next {s t : State} (h : cycleBody s = .next t) :
    (s.avail = true ∧ t = (s.startDrain Config.WIN_INIT).spendTurn) ∨
    (s.avail = false ∧ t = (s.idleFallback.emit (.cycle .idle)).spendTurn) := by
  simp only [cycleBody] at h
  split at h
  · next ha => exact .inl ⟨ha, (Host.Outcome.next.inj h).symm⟩
  · next ha => exact .inr ⟨by simpa using ha, (Host.Outcome.next.inj h).symm⟩

theorem execLedwr_next {len : BitVec 4} {v : Byte} {s t : State} (h : execLedwr len v s = .next t) :
    (len = 1 ∧ t = (((s.setLed v).setIndicator (indicatorOf v)).respond .ledwr (.bit 1#1)).spendTurn) ∨
    (len ≠ 1 ∧ t = ((s.respond .ledwr (.bit 0#1)).emit (.ledReject len)).spendTurn) := by
  simp only [execLedwr] at h
  split at h
  · next hl => exact .inl ⟨by simpa [lengthAccepted] using hl, (Host.Outcome.next.inj h).symm⟩
  · next hl => exact .inr ⟨by simpa [lengthAccepted] using hl, (Host.Outcome.next.inj h).symm⟩

/-- Every next state of an operation that is not held, by operation. -/
inductive Effect : Instr → State → State → Prop where
  | dropped {s : State} (d : Byte) (h : s.full = true) :
      Effect (.insert d) s ((s.respond .insert (.bit 0#1)).emit (.drop d)).spendTurn
  | stored {s : State} (d : Byte) (h : s.full = false) (ht : s.tail.toNat < Config.C) :
      Effect (.insert d) s ((s.setStorage (s.storage.write s.tail.toNat d)).advanceTail.respond
        .insert (.bit 1#1)).spendTurn
  | removed {s : State} (hc : s.count ≠ 0) (hh : s.head.toNat < Config.C) :
      Effect .remove s
        (s.advanceHead.respond .remove (.byte (s.storage.read s.head.toNat))).spendTurn
  | counted {s : State} : Effect .getcount s (s.respond .getcount (.byte s.count)).spendTurn
  | drainStarts {s : State} (h : s.avail = true) :
      Effect .cycle s (s.startDrain Config.WIN_INIT).spendTurn
  | idles {s : State} (h : s.avail = false) :
      Effect .cycle s (s.idleFallback.emit (.cycle .idle)).spendTurn
  | sent {s : State} : Effect .snapshot s
      ((s.respond .snapshot (.wide (reportBus s.report))).emit (.sent s.report)).spendTurn
  | ledAccepted {s : State} (v : Byte) : Effect (.ledwr 1 v) s
      (((s.setLed v).setIndicator (indicatorOf v)).respond .ledwr (.bit 1#1)).spendTurn
  | ledRejected {s : State} (len : BitVec 4) (v : Byte) (h : len ≠ 1) :
      Effect (.ledwr len v) s ((s.respond .ledwr (.bit 0#1)).emit (.ledReject len)).spendTurn
  | cleared {s : State} : Effect .reset s (s.clear.emit .reset).spendTurn

/-- What an operation that gives a next state did: it was held and a DSTEP happened, or it had its
effect. -/
theorem exec_next {i : Instr} {s t : State} (h : exec i s = .next t) :
    (i.owner = .consumer ∧ s.phase = .drain ∧ dstep s = .next t) ∨
    ((i.owner = .consumer → s.phase = .ready) ∧ Effect i s t) := by
  cases i with
  | insert d =>
    rcases execInsert_next h with ⟨h1, rfl⟩ | ⟨h1, h2, rfl⟩
    · exact .inr ⟨nofun, .dropped d h1⟩
    · exact .inr ⟨nofun, .stored d h1 h2⟩
  | remove =>
    rcases consumerCommand_next h with ⟨hp, h⟩ | ⟨hp, h⟩
    · exact .inl ⟨rfl, hp, h⟩
    · obtain ⟨hc, hh, rfl⟩ := removeBody_next h
      exact .inr ⟨fun _ => hp, .removed hc hh⟩
  | getcount =>
    rcases consumerCommand_next h with ⟨hp, h⟩ | ⟨hp, h⟩
    · exact .inl ⟨rfl, hp, h⟩
    · rw [← Host.Outcome.next.inj h]
      exact .inr ⟨fun _ => hp, .counted⟩
  | cycle =>
    rcases consumerCommand_next h with ⟨hp, h⟩ | ⟨hp, h⟩
    · exact .inl ⟨rfl, hp, h⟩
    · rcases cycleBody_next h with ⟨h1, rfl⟩ | ⟨h1, rfl⟩
      · exact .inr ⟨fun _ => hp, .drainStarts h1⟩
      · exact .inr ⟨fun _ => hp, .idles h1⟩
  | snapshot =>
    rcases consumerCommand_next h with ⟨hp, h⟩ | ⟨hp, h⟩
    · exact .inl ⟨rfl, hp, h⟩
    · rw [← Host.Outcome.next.inj h]
      exact .inr ⟨fun _ => hp, .sent⟩
  | ledwr len v =>
    rcases execLedwr_next h with ⟨rfl, rfl⟩ | ⟨h1, rfl⟩
    · exact .inr ⟨nofun, .ledAccepted v⟩
    · exact .inr ⟨nofun, .ledRejected len v h1⟩
  | reset =>
    rw [← Host.Outcome.next.inj h]
    exact .inr ⟨nofun, .cleared⟩

end Sys2Proof.Machine
end

