-- ==== Sys2Proof/Laws/PerInstr.lean ====
section
/-! SUPPORT. A statement about every instruction as syntax, one lemma per constructor: its word matches
the operation's row of 30_encoding.md R73 and no other row. -/

namespace Sys2Proof.Laws.EncodesRow

/-- The word of the instruction selects its own row of the table and no other (30_encoding.md R73:
"At most one row matches any word"). -/
def Statement (i : Instr) : Prop :=
  ∀ m : OpName, encode i &&& m.row.2 = m.row.1 ↔ m = i.opName

/-- A word selects a row of the table only when its op field is the row's. -/
theorem opField_of_row {w : Word} {m : OpName} (h : w &&& m.row.2 = m.row.1) : opField w = m.opcode := by
  have h1 : opField (w &&& m.row.2) = opField m.row.1 := by rw [h]
  have h2 : opField (w &&& m.row.2) = opField w &&& opField m.row.2 := by
    simp only [opField]
    exact BitVec.extractLsb'_and
  have h3 : ∀ x : BitVec 4, x &&& 15#4 = x := by decide
  rw [h2] at h1
  cases m <;> simpa [OpName.row, OpName.opcode, opField, h3] using h1

theorem opcode_injective {m n : OpName} (h : m.opcode = n.opcode) : m = n := by
  revert h; cases m <;> cases n <;> decide

theorem only_own_row (i : Instr) (hop : opField (encode i) = i.opName.opcode)
    (hown : encode i &&& i.opName.row.2 = i.opName.row.1) : Statement i := by
  intro m
  constructor
  · intro h
    exact opcode_injective ((opField_of_row h).symm.trans hop)
  · rintro rfl
    exact hown

theorem insert (d : Byte) : Statement (.insert d) :=
  only_own_row _ (by simp [encode, Instr.opName, OpName.opcode])
    (by simp only [encode, Instr.opName, OpName.row]; revert d; decide)
theorem remove : Statement .remove := only_own_row _ (by decide) (by decide)
theorem getcount : Statement .getcount := only_own_row _ (by decide) (by decide)
theorem cycle : Statement .cycle := only_own_row _ (by decide) (by decide)
theorem snapshot : Statement .snapshot := only_own_row _ (by decide) (by decide)
theorem ledwr (len : BitVec 4) (v : Byte) : Statement (.ledwr len v) :=
  only_own_row _ (by simp [encode, Instr.opName, OpName.opcode]) (by
    simp only [encode, Instr.opName, OpName.row, packWord]
    ext i hi
    simp only [BitVec.getElem_and, BitVec.getElem_append]
    interval_cases i <;> simp)
theorem reset : Statement .reset := only_own_row _ (by decide) (by decide)

end Sys2Proof.Laws.EncodesRow
end

