-- ==== Sys2Proof/Laws/Ports.lean ====
section
/-! SUPPORT. What a clock at the ports does: a turn presented to the block, a list of them, one clock. -/

namespace Sys2Proof.Machine

theorem State.busy_iff (s : State) : s.busy = true ↔ s.phase = .drain := by simp [State.busy]

/-- A presented command word that decodes runs its operation, unless it is held. -/
theorem takeTurn_present_command {s : State} (h : s.faultMark = none) {a : Agent} {w : Word} {i : Instr}
    (hn : ¬(a = .consumer ∧ s.phase = .drain)) (hd : decode a w = .ok i) :
    takeTurn (s.present (.command a w)) = exec i (s.present (.command a w)) := by
  have hh : isHeld (s.present (.command a w)) a = false := decide_eq_false hn
  have hf : (s.present (.command a w)).faultMark = none := h
  unfold takeTurn
  rw [hf]
  show issue (s.present (.command a w)) a w = _
  simp only [issue, hh, hd, Bool.false_eq_true, if_false]

/-- A DSTEP presented in a drain is a DSTEP. -/
theorem takeTurn_present_dstep {s : State} (h : s.faultMark = none) (hp : s.phase = .drain) :
    takeTurn (s.present .dstep) = dstep s := by
  have hf : (s.present .dstep).faultMark = none := h
  unfold takeTurn
  rw [hf]
  show dstepTurn (s.present .dstep) = _
  have hq : (s.present .dstep).phase = .drain := hp
  simp only [dstepTurn, hq]
  rfl

theorem takeTurns_cons_next {t : Turn} {ts : List Turn} {s s' : State}
    (h : takeTurn (s.present t) = .next s') : takeTurns (t :: ts) s = takeTurns ts s' := by
  simp only [takeTurns, h]

/-- A clock whose turns give a next state. -/
theorem Board.clockIn_of_next {b : Board} {turns : List Turn} {t : State}
    (h : takeTurns turns b.block = .next t) :
    b.clockIn turns = .next
      { block := t, clocks := b.clocks + 1, fresh := t.trace.drop b.block.trace.length } := by
  simp only [Board.clockIn, h]

/-- Everything a clock that gives a next board did. -/
theorem Board.clockIn_next {b c : Board} {turns : List Turn} (h : b.clockIn turns = .next c) :
    takeTurns turns b.block = .next c.block ∧ c.clocks = b.clocks + 1 ∧
      c.fresh = c.block.trace.drop b.block.trace.length := by
  simp only [Board.clockIn] at h
  split at h
  · next t ht => cases h; exact ⟨ht, rfl, rfl⟩
  · cases h
  · cases h

/-- In a clock of `rst` there is one order, the RESET alone. -/
theorem PortInputs.orders_rst {p : PortInputs} (h : p.rst = true) (s : State) :
    p.orders s = [[.of .reset]] := by
  simp only [PortInputs.orders, h, if_true]

/-- In a busy clock the consumer port's strobe changes nothing. -/
theorem PortInputs.consumerTurns_busy (p : PortInputs) {s : State} (h : s.phase = .drain) :
    p.consumerTurns s = [.dstep] := by
  simp only [PortInputs.consumerTurns, (State.busy_iff s).2 h, if_true]

end Sys2Proof.Machine
end

