-- ==== Sys2Proof/Laws/Run.lean ====
section
/-! SUPPORT. Runs of the machine, one step at a time. -/

namespace Sys2Proof.Machine

theorem run_zero (s : State) : core.run 0 s = .next s := rfl

theorem hostRun_of_next (M : Host.Core) (n : Nat) {s t : M.State} (h : M.step s = .next t) :
    M.run (n + 1) s = M.run n t := by
  simp [Host.Core.run, h]

theorem hostRun_next (M : Host.Core) {n : Nat} {s u : M.State} (h : M.run (n + 1) s = .next u) :
    ∃ t, M.step s = .next t ∧ M.run n t = .next u := by
  cases hs : M.step s with
  | next t => exact ⟨t, rfl, by rw [← hostRun_of_next M n hs]; exact h⟩
  | fault f => simp [Host.Core.run, hs] at h
  | refused r => simp [Host.Core.run, hs] at h

theorem hostRun_add (M : Host.Core) {m n : Nat} {s t : M.State} (h : M.run m s = .next t) :
    M.run (m + n) s = M.run n t := by
  induction m generalizing s with
  | zero => cases h; rw [Nat.zero_add]
  | succ m ih =>
    obtain ⟨s', hs, hr⟩ := hostRun_next M h
    rw [Nat.add_right_comm, hostRun_of_next M _ hs]
    exact ih hr

/-- A run of `n + 1` steps is one step and then a run of `n`. -/
theorem run_of_step {s t : State} (h : step s = .next t) (n : Nat) : core.run (n + 1) s = core.run n t :=
  hostRun_of_next core n h

/-- What a run that does not stop begins with. -/
theorem run_next {n : Nat} {s u : State} (h : core.run (n + 1) s = .next u) :
    ∃ t : State, step s = .next t ∧ core.run n t = .next u :=
  hostRun_next core h

/-- Runs compose. -/
theorem run_add {m : Nat} {s t : State} (h : core.run m s = .next t) (n : Nat) :
    core.run (m + n) s = core.run n t :=
  hostRun_add core h

/-- A property that every step keeps holds after every run. -/
theorem run_invariant {I : State → Prop} (hstep : ∀ s t, I s → step s = .next t → I t) {n : Nat}
    {s t : State} (hs : I s) (h : core.run n s = .next t) : I t := by
  induction n generalizing s with
  | zero => cases h; exact hs
  | succ n ih =>
    obtain ⟨s', h1, h2⟩ := run_next h
    exact ih (hstep s s' hs h1) h2

theorem execAll_cons_next {i : Instr} {is : List Instr} {s t : State} (h : exec i s = .next t) :
    Safety.execAll (i :: is) s = Safety.execAll is t := by
  simp only [Safety.execAll, h]

theorem dsteps_succ_next {n : Nat} {s t : State} (h : dstep s = .next t) :
    Safety.dsteps (n + 1) s = Safety.dsteps n t := by
  simp only [Safety.dsteps, h]

end Sys2Proof.Machine
end

