-- ==== Sys2Proof/Tests/Slice0.lean ====
section
/-! SUPPORT. Tests of this model: the well-formedness smoke tests, words written out from the spec's
encodings, vectors of 95_test_vectors.md on small states, and for every statement with hypotheses a
state and operands that meet them. -/

namespace Sys2Proof.Tests

open Sys2Proof.Machine Sys2Proof.Safety

/-! ## Well-formedness: a term each check refuses (00_scope.md R8, 30_encoding.md R75, R80) -/

theorem test_params_ok : Config.params.wellFormed = true := by decide
theorem test_params_capacity_refused :
    Params.wellFormed { Config.params with c := 256 } = false := by decide
theorem test_params_capacity_zero_refused :
    Params.capacityOk { Config.params with c := 0 } = false := by decide
theorem test_params_window_refused :
    Params.windowOk { Config.params with w := 11 } = false := by decide
theorem test_params_batch_refused : Params.batchOk { Config.params with b := 9 } = false := by decide
theorem test_params_threshold_refused :
    Params.thresholdOk { Config.params with t := 9 } = false := by decide
theorem test_params_bytes_refused : Params.bytesOk { Config.params with mk0 := 256 } = false := by
  decide
theorem test_params_winInit_refused :
    Params.bytesOk { Config.params with winInit := [0, 0, 0, 0, 0, 0, 0, 0, 0, 256] } = false := by
  decide
theorem test_insert_by_consumer_refused : Instr.wellIssued .consumer (.insert 0x41) = false := by decide
theorem test_insert_by_producer_ok : Instr.wellIssued .producer (.insert 0x41) = true := by decide
theorem test_line_byte_refused : Line.wellFormed (.op .producer .insert [256]) = false := by decide
theorem test_line_length_code_refused : Line.wellFormed (.op .host .ledwr [16, 0]) = false := by decide
theorem test_line_operand_refused : Line.wellFormed (.op .consumer .remove [0]) = false := by decide
theorem test_line_frame_refused : Line.wellFormed (.frame [1, 2, 3]) = false := by decide

/-! ## Encodings, bit by bit from 30_encoding.md R73 -/

/-- 0001 0000 dddd dddd, d = 0x41 (95_test_vectors.md V1). -/
theorem test_decode_insert : decode .producer 0b0001000001000001 = .ok (.insert 0x41) := by decide
/-- 0001 0000 dddd dddd, d = 0xFF (V79). -/
theorem test_decode_insert_ff : decode .producer 0b0001000011111111 = .ok (.insert 0xFF) := by decide
/-- 0010 0000 0000 0000 (V6). -/
theorem test_decode_remove : decode .consumer 0b0010000000000000 = .ok .remove := by decide
/-- 0011 0000 0000 0000 (V10). -/
theorem test_decode_getcount : decode .consumer 0b0011000000000000 = .ok .getcount := by decide
/-- 0100 0000 0000 0000 (V20). -/
theorem test_decode_cycle : decode .consumer 0b0100000000000000 = .ok .cycle := by decide
/-- 0101 0000 0000 0000 (V40). -/
theorem test_decode_snapshot : decode .consumer 0b0101000000000000 = .ok .snapshot := by decide
/-- 0110 LLLL vvvv vvvv, L = 2, v = 0x02 (V46). -/
theorem test_decode_ledwr : decode .host 0b0110001000000010 = .ok (.ledwr 2 0x02) := by decide
/-- 0110 LLLL vvvv vvvv, L = 15, v = 0x00 (V78). -/
theorem test_decode_ledwr_len15 : decode .host 0x6F00 = .ok (.ledwr 15 0x00) := by decide
/-- 0111 0000 0000 0000 (V80). -/
theorem test_decode_reset : decode .resetSource 0b0111000000000000 = .ok .reset := by decide
/-- V70 to V72. -/
theorem test_refuse_reserved : decode .consumer 0x0000 = .error .reservedOpcode ∧
    decode .producer 0x8041 = .error .reservedOpcode ∧ decode .host 0xF102 = .error .reservedOpcode := by
  decide
/-- V73, V74. -/
theorem test_refuse_agent : decode .consumer 0x1041 = .error .wrongAgent ∧
    decode .consumer 0x7001 = .error .wrongAgent := by decide
/-- V75 to V77. -/
theorem test_refuse_field : decode .consumer 0x2001 = .error .nonzeroField ∧
    decode .consumer 0x2100 = .error .nonzeroField ∧ decode .producer 0x1141 = .error .nonzeroField := by
  decide
theorem test_table_word : decodeTableWord 16 0x6102 = some (.ledwr 1 0x02) ∧
    decodeTableWord 16 0x2001 = none ∧ decodeTableWord 16 0x16102 = none := by decide

/-! ## Helpers -/

/-- The reset state with the indices and the count of a vector "head/tail/count". -/
def ring (head tail count : BitVec 8) : State := { State.reset with head, tail, count }

/-- A drain in progress, its window as after a drain start. -/
def draining (head tail count : BitVec 8) (k : BitVec 4) : State :=
  { ring head tail count with phase := .drain, k, win := some Config.WIN_INIT }

/-- The state, when there is a next one. -/
def nextOf : Result → Option State
  | .next s => some s
  | _ => none

/-! ## Operations, one step each (95_test_vectors.md) -/

/-- V3: the byte goes to slot 254, tail wraps, the buffer is full. -/
theorem test_insert_wraps :
    (nextOf (exec (.insert 0x5A) (ring 0 254 254))).map
      (fun t => (t.storage.read 254, t.head, t.tail, t.count)) = some (0x5A, 0, 0, 255) := by decide
/-- V2: full, the byte is dropped. -/
theorem test_insert_full :
    (nextOf (exec (.insert 0x99) (ring 7 7 255))).map (fun t => (t.storage, t.tail, t.count, t.trace)) =
      some ([], 7, 255, [.resp .producer .insert (.bit 0#1), .drop 0x99]) := by decide
/-- V7: head wraps. -/
theorem test_remove_wraps :
    (nextOf (exec .remove { ring 254 0 1 with storage := [(254, 0x66)] })).map
      (fun t => (t.head, t.tail, t.count, t.trace)) =
      some (0, 0, 0, [.resp .consumer .remove (.byte 0x66)]) := by decide
/-- V8: the fault, its information, and nothing else changed. -/
theorem test_remove_empty :
    exec .remove (ring 5 5 0) = .fault (.removeEmpty { ring 5 5 0 with
      faultMark := some { kind := .removeEmpty, word := 0x2000, agent := .consumer, head := 5, tail := 5 } }) :=
  rfl
/-- V11. -/
theorem test_getcount_full :
    (nextOf (exec .getcount (ring 3 3 255))).map (·.trace) =
      some [.resp .consumer .getcount (.byte 0xFF)] := by decide
/-- V22: nine bytes are not enough. -/
theorem test_cycle_nine :
    (nextOf (exec .cycle { ring 0 9 9 with indOut := true, ledBits := 2 })).map
      (fun t => (t.phase, t.count, t.indOut, t.ledBits, t.trace)) =
      some (.ready, 9, false, 2, [.cycle .idle]) := by decide
/-- R130: ten are. -/
theorem test_cycle_ten :
    (nextOf (exec .cycle (ring 0 10 10))).map (fun t => (t.phase, t.k, t.win, t.count)) =
      some (.drain, 0, some Config.WIN_INIT, 10) := by decide
/-- V41: byte 0 of the report is the least significant byte of the response. -/
theorem test_snapshot_bus :
    (nextOf (exec .snapshot { State.reset with report := #v[2, 0, 4, 5, 6, 7, 8, 9] })).map (·.trace) =
      some [.resp .consumer .snapshot (.wide 0x0908070605040002), .sent #v[2, 0, 4, 5, 6, 7, 8, 9]] := by
  decide
/-- V43: Num and Scroll without Caps turn the indicator off. -/
theorem test_ledwr_accepted :
    (nextOf (exec (.ledwr 1 0x05) { State.reset with ledBits := 2, indOut := true })).map
      (fun t => (t.ledBits, t.indOut, t.trace)) =
      some (0x05, false, [.resp .host .ledwr (.bit 1#1)]) := by decide
/-- V47. -/
theorem test_ledwr_rejected :
    (nextOf (exec (.ledwr 15 0x02) State.reset)).map (fun t => (t.ledBits, t.indOut, t.trace)) =
      some (0, false, [.resp .host .ledwr (.bit 0#1), .ledReject 15]) := by decide
/-- V60: the ring and the drain. -/
theorem test_reset_in_drain :
    (nextOf (exec .reset (draining 3 10 7 4))).map (fun t => (t.head, t.tail, t.count)) =
      some (0, 0, 0) ∧
    (nextOf (exec .reset (draining 3 10 7 4))).map (fun t => (t.phase, t.k, t.win)) =
      some (.ready, 0, none) := by decide
/-- V60: the host's state and the event. -/
theorem test_reset_leds :
    (nextOf (exec .reset { draining 3 10 7 4 with ledBits := 2, indOut := true })).map
      (fun t => (t.ledBits, t.indOut, t.trace)) = some (0, false, [.reset]) := by decide
/-- 95_test_vectors.md V31: with other start content a match can come at the ninth byte. -/
theorem test_dstep_short_match :
    (nextOf (dstep { draining 8 10 2 8 with
        win := some #v[0, 0xFF, 0xFE, 1, 2, 3, 4, 5, 6, 7], storage := [(8, 8)] })).map
      (fun t => (t.head, t.count, t.phase, t.report, t.trace)) =
      some (9, 1, .ready, #v[1, 2, 3, 4, 5, 6, 7, 8], [.cycle (.matched 9)]) := by decide
/-- V25: the tenth byte without a match. -/
theorem test_dstep_no_match :
    (nextOf (dstep { draining 9 11 2 9 with report := #v[1, 1, 1, 1, 1, 1, 1, 1] })).map
      (fun t => (t.count, t.phase, t.report, t.trace)) =
      some (1, .ready, #v[1, 1, 1, 1, 1, 1, 1, 1], [.cycle .noMatch]) := by decide
/-- V63: a refused word sets the mark, changes nothing else, and the run goes on. -/
theorem test_refused_word :
    (nextOf (step (startWith [.command .consumer 0x1041]))).map
      (fun t => (t.refusalMark, t.trace, t.count)) =
      some (some { reason := .wrongAgent, agent := .consumer, word := 0x1041 }, [], 0) := by decide
/-- V33: a consumer command in a drain makes a listing invalid; the block performs a DSTEP. -/
theorem test_held_command :
    validFor 1 { draining 4 14 10 4 with schedule := [.command .consumer 0x3000] } = false ∧
    (nextOf (step { draining 4 14 10 4 with schedule := [.command .consumer 0x3000] })).map
      (fun t => (t.k, t.count, t.schedule)) = some (5, 9, [.command .consumer 0x3000]) := by decide
/-- R81: a FRAME is ten INSERTs, the marker first. -/
theorem test_frame_expands :
    (Line.frame [1, 2, 3, 4, 5, 6, 7, 8]).assemble.take 3 =
      [.command .producer 0x10FF, .command .producer 0x10FE, .command .producer 0x1001] := by decide
/-- The input signals of a clock with no request. -/
def quiet : PortInputs := ⟨false, 0, false, 0, false, 0, 0, false⟩

/-- The state at the ports, with no clock passed. -/
def atPorts (s : State) : Board := ⟨s, 0, []⟩

/-- R177: a request in the clock of `rst` is discarded. -/
theorem test_rst_dominates :
    ({ quiet with pReq := true, pData := 1, cReq := true, cOp := 2, rst := true } : PortInputs).orders
      State.reset = [[.command .resetSource 0x7000]] := by decide
/-- R79: a strobe in a busy clock is not accepted and does not come back later. -/
theorem test_busy_strobe_is_not_accepted :
    ((atPorts (draining 4 14 10 4)).clock { quiet with cReq := true, cOp := 3 }).map
      (fun o => match o with
        | .next c => (c.block.k, c.block.count, c.block.schedule, c.block.trace)
        | _ => (0, 0, [], [])) = [(5, 9, [], [])] := by decide
/-- R63 at the ports: full, the orders INSERT first and REMOVE first. -/
theorem test_same_clock_full :
    ((atPorts (ring 0 0 255)).clock { quiet with pReq := true, pData := 7, cReq := true, cOp := 2 }).map
      (fun o => match o with
        | .next c => (c.block.count, c.outputs.pStored)
        | _ => (0, 0)) = [(254, 0), (255, 1)] := by decide
/-- R79: an 8-bit response has zeros in bits [63:8]. -/
theorem test_getcount_on_rdata :
    ((atPorts (ring 3 3 255)).clock { quiet with cReq := true, cOp := 3 }).map
      (fun o => match o with
        | .next c => c.outputs.cRdata
        | _ => 0) = [0xFF] := by decide
theorem test_fetch_word_runs : nextOf (step (State.reset.withFetchWord 16 0x1041)) =
    nextOf (exec (.insert 0x41) (State.reset.withFetchWord 16 0x1041)) := by decide

/-! ## States and operands that meet the statements' hypotheses -/

theorem ring_inv_empty : Inv (ring 0 0 0) :=
  ⟨by decide, by decide, by decide, by decide, nofun⟩
theorem ring_inv_full : Inv (ring 0 0 255) :=
  ⟨by decide, by decide, by decide, by decide, nofun⟩
theorem ring_inv_ten : Inv (ring 0 10 10) :=
  ⟨by decide, by decide, by decide, by decide, nofun⟩
theorem draining_inv_start : Inv (draining 0 10 10 0) :=
  ⟨by decide, by decide, by decide, by decide, nofun⟩
theorem draining_inv_last : Inv (draining 9 10 1 9) :=
  ⟨by decide, by decide, by decide, by decide, nofun⟩

theorem witness_ParameterCheckIsExactlyTheConstraints :
    Config.params.winInit.length = Config.params.w := by decide
theorem witness_DecoderChecksOpcodeThenAgentThenFields :
    (opField 0x0FFF).toNat = 0 ∧ 8 ≤ (opField 0x8000).toNat ∧ opField 0x1000 = OpName.insert.opcode ∧
    opField 0x7000 = OpName.reset.opcode ∧ (Agent.consumer ≠ OpName.insert.owner) ∧
    auxField 0x1100 ≠ 0 ∧ dataField 0x2001 ≠ 0 ∧ auxField 0x2100 ≠ 0 ∧ auxField 0x6F00 ≠ 0 := by decide
theorem witness_StepExecutesTheDecodedCommand :
    (startWith [.command .producer 0x1041]).faultMark = none ∧
    (startWith [.command .producer 0x1041]).schedule = .command .producer 0x1041 :: [] ∧
    decode .producer 0x1041 = .ok (.insert 0x41) := by decide
theorem witness_PresentedTableWordIsRunNext :
    State.reset.faultMark = none ∧ decodeTableWord 16 0x7000 = some .reset := by decide
theorem witness_RefusedWordSetsTheMarkAndNothingElse :
    decode .consumer 0x0000 = .error .reservedOpcode ∧ (State.reset.phase = .ready) ∧
    State.reset.refusalMark = none ∧
    ({ State.reset with refusalMark := some { reason := .wrongAgent, agent := .consumer, word := 0x1041 } } :
      State).refusalMark ≠ none ∧
    decode .producer 0x2000 = .error .wrongAgent ∧
    ¬(Agent.producer = .consumer ∧ (draining 0 10 10 0).phase = .drain) := by decide
theorem witness_FaultedMachineTakesNoStep :
    ({ ring 5 5 0 with faultMark := some ⟨.removeEmpty, 0x2000, .consumer, 5, 5⟩ } : State).faultMark =
      some ⟨.removeEmpty, 0x2000, .consumer, 5, 5⟩ := by decide
theorem witness_MarksStayAndTraceOnlyGrows :
    (nextOf (step (startWith [.command .consumer 0x8000, .command .resetSource 0x7000]))).bind
      (fun t => nextOf (step t)) ≠ none := by decide
theorem witness_EachExecutedCommandUsesOneTurn :
    nextOf (exec (.insert 1) (ring 0 0 0)) ≠ none ∧ nextOf (exec .getcount (ring 0 0 0)) ≠ none ∧
    nextOf (exec .getcount (draining 0 10 10 0)) ≠ none := by decide
theorem witness_InsertStoresAtTailOrDropsWhenFull :
    (ring 0 254 254).tail.toNat < 255 ∧ (ring 0 254 254).storage.wf = true ∧
    (ring 0 254 254).count.toNat ≠ 255 ∧ (ring 0 0 255).count.toNat = 255 ∧
    (ring 0 0 0).tail.toNat < 255 := by decide
theorem witness_RemoveReturnsTheOldestByteOrFaults :
    (ring 254 0 1).phase = .ready ∧ (ring 254 0 1).head.toNat < 255 ∧ (ring 254 0 1).count ≠ 0 ∧
    (ring 0 0 0).phase = .ready ∧ (ring 0 0 0).count = 0 := by decide
theorem witness_GetcountAnswersCountAndChangesNothing : (ring 0 0 255).phase = .ready := by decide
theorem witness_CycleStartsADrainOrFallsBackToIdle :
    (ring 0 9 9).phase = .ready ∧ (ring 0 9 9).count.toNat < 10 ∧ (ring 0 10 10).phase = .ready ∧
    10 ≤ (ring 0 10 10).count.toNat ∧ 10 ≤ (ring 0 0 255).count.toNat := by decide
theorem witness_SnapshotAnswersTheReportAndChangesNothing : State.reset.phase = .ready := by decide
theorem witness_LedwrIsAcceptedAtLengthOneOnly :
    (1 : BitVec 4) = 1 ∧ (0 : BitVec 4) ≠ 1 ∧ (2 : BitVec 4) ≠ 1 ∧ (15 : BitVec 4) ≠ 1 := by decide
theorem witness_OverflowKeepsTheFirstBytes : Inv (ring 0 0 255) ∧ Inv (ring 0 0 0) :=
  ⟨ring_inv_full, ring_inv_empty⟩
theorem witness_RemovesReturnTheInsertsInOrder :
    (List.replicate 255 (0x41 : Byte)).length ≤ 255 := by rw [List.length_replicate]
theorem witness_RingInvariantHoldsInEveryReachableState :
    Reachable State.reset ∧ RingInv (ring 0 0 255) ∧ nextOf (exec (.insert 1) (ring 0 0 255)) ≠ none ∧
    nextOf (exec .remove (ring 0 0 255)) ≠ none ∧ nextOf (exec .getcount (ring 0 0 0)) ≠ none :=
  ⟨⟨0, [], rfl⟩, by decide, by decide, by decide, by decide⟩
theorem witness_StoredBytesAreTakenBytesThenTheQueue :
    Inv (startWith [.command .producer 0x1041]) ∧ (startWith [.command .producer 0x1041]).queue = [] ∧
    nextOf (step (startWith [.command .producer 0x1041])) ≠ none ∧
    (Flow.run 2 ⟨startWith [.command .producer 0x1041, .command .consumer 0x2000], [], []⟩).map
      (fun f => (f.stored, f.taken)) = some ([0x41], [0x41]) :=
  ⟨⟨by decide, by decide, by decide, by decide, nofun⟩, by decide, by decide, by decide⟩
theorem witness_StaleStorageIsNeverObserved :
    Inv (ring 0 0 0) ∧ Inv { ring 0 0 0 with storage := [(5, 1)] } ∧
    SameButStaleSlots (ring 0 0 0) { ring 0 0 0 with storage := [(5, 1)] } ∧
    nextOf (step (ring 0 0 0)) ≠ none :=
  ⟨ring_inv_empty, ⟨by decide, by decide, by decide, by decide, nofun⟩,
    ⟨by decide, rfl, rfl, rfl, rfl, rfl, rfl, rfl, rfl, rfl, rfl, rfl, rfl, rfl⟩, by decide⟩
theorem witness_DstepShiftsOneByteAndTestsTheMarker :
    (draining 254 9 10 0).phase = .drain ∧ (draining 254 9 10 0).head.toNat < 255 ∧
    (draining 254 9 10 0).count ≠ 0 ∧ (draining 254 9 10 0).k.toNat < 10 ∧
    (draining 254 9 10 0).win = some Config.WIN_INIT ∧ (draining 9 10 1 9).k.toNat < 10 ∧
    (draining 9 10 1 9).count ≠ 0 := by decide
theorem witness_DstepMatchAndEnd :
    (nextOf (dstep { draining 9 10 1 9 with win := some #v[0, 0xFF, 0xFE, 1, 2, 3, 4, 5, 6, 7] })).map
      (·.trace) = some [.cycle (.matched 10)] ∧
    (nextOf (dstep (draining 9 10 1 9))).map (·.trace) = some [.cycle .noMatch] ∧
    (nextOf (dstep (draining 0 10 10 0))).map (·.trace) = some [] := by decide
theorem witness_WindowHoldsItsStartContentThenTheBytes :
    ([1, 2] : List Byte).length ≤ 10 ∧ 7 + ([1, 2] : List Byte).length ≤ 9 ∧
    9 < 8 + ([1, 2] : List Byte).length ∧ (List.replicate 10 (1 : Byte)).length ≤ 10 := by decide
theorem witness_DrainNeverFaultsAndEndsInTime :
    Inv (draining 0 10 10 0) ∧ (draining 0 10 10 0).phase = .drain ∧ Inv (draining 9 10 1 9) :=
  ⟨draining_inv_start, by decide, draining_inv_last⟩

/-- Ten buffered bytes, the first `a`, the second `b`, then zeros, and `C: DRAIN` to come. -/
def tenBytes (a b : Byte) : State :=
  { ring 0 10 10 with
    storage := [(0, a), (1, b)], schedule := [.command .consumer 0x4000, .drain] }

theorem witness_DrainRemovesTenBytesAndMatchesAtTheirFront :
    Inv (tenBytes 0xFF 0xFE) ∧ (tenBytes 0xFF 0xFE).faultMark = none ∧
    (tenBytes 0xFF 0xFE).phase = .ready ∧
    (tenBytes 0xFF 0xFE).queue = (#v[0xFF, 0xFE, 0, 0, 0, 0, 0, 0, 0, 0] : Vector Byte 10).toList ++ [] ∧
    (tenBytes 0xFF 0xFE).schedule = .command .consumer 0x4000 :: .drain :: [] ∧
    (tenBytes 0xFF 0xFD).queue = (#v[0xFF, 0xFD, 0, 0, 0, 0, 0, 0, 0, 0] : Vector Byte 10).toList ++ [] :=
  ⟨⟨by decide, by decide, by decide, by decide, nofun⟩, by decide, by decide, by decide, by decide, by decide⟩
theorem witness_IndicatorRisesOnlyByAHostWrite :
    (startWith [.command .host 0x6102]).indOut = false ∧
    (nextOf (step (startWith [.command .host 0x6102]))).map (·.indOut) = some true := by decide
theorem witness_ConsumerCommandsAreHeldInADrain :
    (draining 0 10 10 0).phase = .drain ∧ nextOf (exec .snapshot (draining 0 10 10 0)) ≠ none := by decide
theorem witness_HeldCommandWaitsAtMostTenSteps :
    Inv { draining 0 10 10 0 with schedule := [.command .consumer 0x3000] } ∧
    ({ draining 0 10 10 0 with schedule := [.command .consumer 0x3000] } : State).phase = .drain ∧
    ({ draining 0 10 10 0 with schedule := [.command .consumer 0x3000] } : State).faultMark = none :=
  ⟨⟨by decide, by decide, by decide, by decide, nofun⟩, by decide, by decide⟩
theorem witness_EachAgentWritesOnlyWhatItOwns :
    nextOf (step (startWith [.command .producer 0x1041])) ≠ none ∧
    nextOf (step (startWith [.command .host 0x6102])) ≠ none ∧
    nextOf (step (startWith [.command .consumer 0x4000])) ≠ none ∧
    nextOf (step (draining 0 10 10 0)) ≠ none := by decide
theorem ring_inv_one : Inv (ring 254 0 1) :=
  ⟨by decide, by decide, by decide, by decide, nofun⟩
theorem ring_inv_almost_full : Inv (ring 0 254 254) :=
  ⟨by decide, by decide, by decide, by decide, nofun⟩
theorem draining_inv_full : Inv (draining 0 0 255 0) :=
  ⟨by decide, by decide, by decide, by decide, nofun⟩
theorem draining_inv_almost_full : Inv (draining 0 254 254 0) :=
  ⟨by decide, by decide, by decide, by decide, nofun⟩
theorem witness_InsertAndRemoveCommuteUnlessFull :
    Inv (ring 0 0 255) ∧ (ring 0 0 255).phase = .ready ∧ (ring 0 0 255).count ≠ 0 ∧
    (ring 0 0 255).count.toNat = 255 ∧
    Inv (ring 254 0 1) ∧ (ring 254 0 1).count ≠ 0 ∧ (ring 254 0 1).count.toNat ≠ 255 ∧
    Inv (ring 0 254 254) ∧ (ring 0 254 254).count.toNat ≠ 255 :=
  ⟨ring_inv_full, by decide, by decide, by decide, ring_inv_one, by decide, by decide,
    ring_inv_almost_full, by decide⟩
theorem witness_InsertAndDstepCommuteUnlessFull :
    Inv (draining 0 0 255 0) ∧ (draining 0 0 255 0).phase = .drain ∧
    (draining 0 0 255 0).count.toNat = 255 ∧ Inv (draining 0 254 254 0) ∧
    (draining 0 254 254 0).count.toNat ≠ 255 ∧ Inv (draining 9 10 1 9) ∧
    (draining 9 10 1 9).count.toNat ≠ 255 :=
  ⟨draining_inv_full, by decide, by decide, draining_inv_almost_full, by decide, draining_inv_last,
    by decide⟩
theorem witness_RstPerformsResetAndDiscardsTheRest :
    (atPorts (draining 0 10 10 0)).block.faultMark = none ∧
    ({ quiet with pReq := true, hReq := true, rst := true } : PortInputs).rst = true := by decide
theorem witness_BusyPortAcceptsNoCommandAndStepsTheDrain :
    Inv (atPorts (draining 9 10 1 9)).block ∧ (atPorts (draining 9 10 1 9)).block.faultMark = none ∧
    (atPorts (draining 9 10 1 9)).block.phase = .drain ∧ quiet.rst = false ∧ quiet.pReq = false ∧
    quiet.hReq = false :=
  ⟨draining_inv_last, by decide, by decide, by decide, by decide, by decide⟩
theorem witness_ConsumerPortGivesTheResponse :
    Inv (atPorts (ring 0 0 0)).block ∧ (atPorts (ring 0 0 0)).block.count = 0 ∧
    Inv (atPorts (ring 254 0 1)).block ∧ (atPorts (ring 254 0 1)).block.count ≠ 0 ∧
    (atPorts (ring 254 0 1)).block.phase = .ready ∧ (atPorts (ring 254 0 1)).block.faultMark = none ∧
    ({ quiet with cReq := true, cOp := 2 } : PortInputs).cReq = true ∧
    Inv (atPorts (ring 0 10 10)).block :=
  ⟨ring_inv_empty, by decide, ring_inv_one, by decide, by decide, by decide, by decide, ring_inv_ten⟩
theorem witness_ProducerAndHostPortsGiveTheirResponses :
    Inv (atPorts (ring 0 0 255)).block ∧ (atPorts (ring 0 0 255)).block.faultMark = none ∧
    (atPorts (ring 0 0 255)).block.phase = .ready ∧ Inv (atPorts (ring 0 254 254)).block ∧
    quiet.rst = false ∧ quiet.cReq = false :=
  ⟨ring_inv_full, by decide, by decide, ring_inv_almost_full, by decide, by decide⟩
theorem witness_SameClockInsertAndRemoveLeaveASerialState :
    Inv (atPorts (ring 0 0 255)).block ∧ (atPorts (ring 0 0 255)).block.phase = .ready ∧
    (atPorts (ring 0 0 255)).block.count ≠ 0 ∧ (atPorts (ring 0 0 255)).block.faultMark = none ∧
    Inv (atPorts (ring 254 0 1)).block ∧ (atPorts (ring 254 0 1)).block.count ≠ 0 ∧
    Inv (atPorts (ring 0 254 254)).block :=
  ⟨ring_inv_full, by decide, by decide, by decide, ring_inv_one, by decide, ring_inv_almost_full⟩
theorem witness_IndicatorRaceIsDecidedByTheOrder :
    (ring 0 9 9).phase = .ready ∧ (ring 0 9 9).count.toNat < 10 := by decide
theorem witness_EveryStepKeepsTheInvariant :
    Inv (draining 0 10 10 0) ∧ nextOf (step (draining 0 10 10 0)) ≠ none :=
  ⟨draining_inv_start, by decide⟩
theorem witness_OnlyEmptyRemoveOrAnInvalidListingStops :
    Inv { ring 0 0 0 with schedule := [.command .consumer 0x2000] } ∧
    ({ ring 0 0 0 with schedule := [.command .consumer 0x2000] } : State).faultMark = none ∧
    step { ring 0 0 0 with schedule := [.dstep] } = .refused .dstepNotEnabled :=
  ⟨⟨by decide, by decide, by decide, by decide, nofun⟩, by decide, rfl⟩

/-- A frame of eight zero payload bytes, DRAIN and SNAPSHOT to come. -/
def frameToCome : State :=
  startWith ((((0xFF : Byte) :: 0xFE :: (Vector.replicate 8 0 : Vector Byte 8).toList).map fun d =>
    .command .producer (encode (.insert d))) ++
      [.command .consumer 0x4000, .drain, .command .consumer 0x5000] ++ [])

theorem witness_AFrameReachesTheTransport :
    Inv frameToCome ∧ frameToCome.faultMark = none ∧ frameToCome.phase = .ready ∧ frameToCome.count = 0 :=
  ⟨⟨by decide, by decide, by decide, by decide, nofun⟩, by decide, by decide, by decide⟩
theorem witness_AMainLoopIterationEndsWithinTwelveSteps :
    Inv { ring 0 10 10 with schedule := assemble [.iter true] ++ [] } ∧
    Inv { ring 0 9 9 with schedule := assemble [.iter false] ++ [] } ∧
    (ring 0 9 9).count.toNat < 10 ∧ 10 ≤ (ring 0 10 10).count.toNat :=
  ⟨⟨by decide, by decide, by decide, by decide, nofun⟩,
    ⟨by decide, by decide, by decide, by decide, nofun⟩, by decide, by decide⟩

end Sys2Proof.Tests
end

section
/-! PROOF. The check on the parameters (00_scope.md R7, R8): one equivalence per part of
`Params.wellFormed`, then the whole check. -/

namespace Sys2Proof

theorem Params.capacityOk_iff (p : Params) :
    p.capacityOk = true ↔ 1 ≤ p.c ∧ p.c ≤ 2 ^ p.cntW - 1 :=
  decide_eq_true_iff

theorem Params.windowOk_iff (p : Params) :
    p.windowOk = true ↔ p.w = 2 + p.p ∧ p.rlen = p.p :=
  decide_eq_true_iff

theorem Params.batchOk_iff (p : Params) : p.batchOk = true ↔ p.b = p.w :=
  decide_eq_true_iff

theorem Params.thresholdOk_iff (p : Params) :
    p.thresholdOk = true ↔ p.b ≤ p.t ∧ p.t ≤ p.c :=
  decide_eq_true_iff

/-- R8 bounds a byte by `2^BYTE_W - 1` where the check is strict; this is also the only part that reads
the length of WIN_INIT (R7). -/
theorem Params.bytesOk_iff (p : Params) :
    p.bytesOk = true ↔
      (p.mk0 ≤ 2 ^ p.byteW - 1 ∧ p.mk1 ≤ 2 ^ p.byteW - 1) ∧ p.winInit.length = p.w ∧
        ∀ x ∈ p.winInit, x ≤ 2 ^ p.byteW - 1 := by
  simp only [bytesOk, Bool.and_eq_true, decide_eq_true_iff, List.all_eq_true,
    Nat.lt_iff_le_pred (Nat.two_pow_pos p.byteW), and_assoc]

theorem Params.wellFormed_iff (p : Params) :
    p.wellFormed = true ↔
      p.capacityOk = true ∧ p.windowOk = true ∧ p.batchOk = true ∧ p.thresholdOk = true ∧
        p.bytesOk = true := by
  simp only [wellFormed, Bool.and_eq_true, and_assoc]

/-- The defaults of R7 meet R8; WIN_INIT's slots are all checked. -/
theorem Config.params_wellFormed : Config.params.wellFormed = true := by decide

/-- Settles O1: the check is the conjunction of its parts, each part is one constraint of R8, and the
premise supplies what `bytesOk` asks of WIN_INIT beyond R8. -/
theorem parameterCheckIsExactlyTheConstraints :
    Obligations.ParameterCheckIsExactlyTheConstraints := by
  refine ⟨fun p hlen => ?_, Config.params_wellFormed⟩
  rw [p.wellFormed_iff, p.capacityOk_iff, p.windowOk_iff, p.batchOk_iff, p.thresholdOk_iff,
    p.bytesOk_iff]
  constructor
  · rintro ⟨hcap, hwin, hbatch, ⟨hbt, htc⟩, hmark, -, hslots⟩
    exact ⟨hcap, hwin, hbatch, hbt, htc, hmark, hslots⟩
  · rintro ⟨hcap, hwin, hbatch, hbt, htc, hmark, hslots⟩
    exact ⟨hcap, hwin, hbatch, ⟨hbt, htc⟩, hmark, hlen, hslots⟩

end Sys2Proof
end

section
/-! PROOF. The four cases of the decoder in their order (30_encoding.md R83): which field defects an
operation refuses, which operands it takes from the word, and the decoder's answer in each case. -/

namespace Sys2Proof

theorem OpName.auxMustBeZero_iff (m : OpName) : m.auxMustBeZero = true ↔ m ≠ .ledwr := by
  cases m <;> decide

theorem OpName.dataMustBeZero_iff (m : OpName) :
    m.dataMustBeZero = true ↔ m ≠ .ledwr ∧ m ≠ .insert := by
  cases m <;> decide

/-- The illegal words of R74. -/
theorem OpName.fieldError_iff (m : OpName) (w : Word) :
    m.fieldError w = true ↔
      (m ≠ .ledwr ∧ auxField w ≠ 0) ∨ (m ≠ .ledwr ∧ m ≠ .insert ∧ dataField w ≠ 0) := by
  simp only [fieldError, Bool.or_eq_true, Bool.and_eq_true, decide_eq_true_iff,
    m.auxMustBeZero_iff, m.dataMustBeZero_iff, and_assoc]

theorem OpName.operandsOf_eq_insert {m : OpName} {w : Word} {d : Byte}
    (h : m.operandsOf w = .insert d) : d = dataField w := by
  cases m <;> cases h
  rfl

theorem OpName.operandsOf_eq_ledwr {m : OpName} {w : Word} {len : BitVec 4} {v : Byte}
    (h : m.operandsOf w = .ledwr len v) : len = auxField w ∧ v = dataField w := by
  cases m <;> cases h
  exact ⟨rfl, rfl⟩

/-- An op value that is not reserved is the op of an operation (R73). -/
theorem exists_opNameOf_of_not_reserved {op : BitVec 4} (h : ¬(op.toNat = 0 ∨ 8 ≤ op.toNat)) :
    ∃ m, opNameOf op = some m :=
  Option.ne_none_iff_exists'.mp (mt (opNameOf_none_iff op).mp h)

section

variable {a : Agent} {w : Word} {m : OpName}

theorem decode_of_wrong_agent (hm : opNameOf (opField w) = some m) (ha : a ≠ m.owner) :
    decode a w = .error .wrongAgent := by
  rw [decode_of_op a hm, if_pos ha]

theorem decode_of_field_error (hm : opNameOf (opField w) = some m) (ha : a = m.owner)
    (hf : m.fieldError w = true) : decode a w = .error .nonzeroField := by
  rw [decode_of_op a hm, if_neg (not_not_intro ha), if_pos hf]

theorem decode_of_legal (hm : opNameOf (opField w) = some m) (ha : a = m.owner)
    (hf : ¬m.fieldError w = true) : decode a w = .ok (m.operandsOf w) := by
  rw [decode_of_op a hm, if_neg (not_not_intro ha), if_neg hf]

end

/-- Settles O5: one decoder lemma for each case of R83, the operation being the one that the op selects. -/
theorem decoderChecksOpcodeThenAgentThenFields :
    Obligations.DecoderChecksOpcodeThenAgentThenFields := by
  intro a w
  refine ⟨fun hres => decode_of_reserved a ((opNameOf_none_iff (opField w)).mpr hres), fun hop => ?_⟩
  obtain ⟨m, hm⟩ : ∃ m, opNameOf (opField w) = some m := exists_opNameOf_of_not_reserved hop
  refine ⟨m, opNameOf_some hm, decode_of_wrong_agent hm, fun ha => ⟨fun hbad => ?_, fun hgood => ?_⟩⟩
  · exact decode_of_field_error hm ha ((m.fieldError_iff w).mpr hbad)
  · have hdec : decode a w = .ok (m.operandsOf w) :=
      decode_of_legal hm ha (mt (m.fieldError_iff w).mp hgood)
    exact ⟨m.operandsOf w, hdec, opName_operandsOf m w, fun _ => OpName.operandsOf_eq_insert,
      fun _ _ => OpName.operandsOf_eq_ledwr⟩

end Sys2Proof
end

section
/-! PROOF. REMOVE and GETCOUNT while phase = Ready (40_ringbuffer.md R101, R102): what each operation
answers, one equation per branch, and the queue that a response leaves as it was. -/

namespace Sys2Proof.Machine

theorem encode_remove : encode .remove = 0x2000 := by decide

theorem encode_getcount : encode .getcount = 0x3000 := by decide

section

variable {s : State}

theorem exec_remove_ready (hp : s.phase = .ready) : exec .remove s = removeBody s :=
  consumerCommand_ready hp removeBody

theorem exec_getcount_ready (hp : s.phase = .ready) :
    exec .getcount s = .next (s.respond .getcount (.byte s.count)).spendTurn :=
  consumerCommand_ready hp getcountBody

theorem removeBody_of_empty (hc : s.count = 0) : removeBody s = .fault (raiseRemoveEmpty s) := by
  simp only [removeBody, rbPop_of_empty s hc]

theorem removeBody_of_pos (hc : s.count ≠ 0) (hh : s.head.toNat < Config.C) :
    removeBody s =
      .next (s.advanceHead.respond .remove (.byte (s.storage.read s.head.toNat))).spendTurn := by
  simp only [removeBody, rbPop_of_pos s hc hh]

end

/-- The fault mark of R171, its word as the number in the encoding table. -/
theorem raiseRemoveEmpty_eq (s : State) :
    raiseRemoveEmpty s = .removeEmpty (s.markFault
      { kind := .removeEmpty, word := 0x2000, agent := .consumer, head := s.head, tail := s.tail }) := by
  rw [raiseRemoveEmpty, encode_remove]

/-- A response touches neither storage nor indices, so the queue (10_state.md R27) stays. -/
theorem State.queue_respond_spendTurn (s : State) (op : OpName) (v : Response) :
    (s.respond op v).spendTurn.queue = s.queue :=
  State.queue_congr rfl rfl rfl

/-- Settles O15: on an empty buffer `rbPop` faults with the mark of R171; otherwise it gives the byte at
`head`, which `queue_advanceHead` shows to be the oldest. -/
theorem removeReturnsTheOldestByteOrFaults : Obligations.RemoveReturnsTheOldestByteOrFaults := by
  intro s hp hh
  refine ⟨encode_remove, rfl, fun hempty => ?_, fun hpos => ?_⟩
  · rw [exec_remove_ready hp, removeBody_of_empty hempty, raiseRemoveEmpty_eq]
    rfl
  · have hrun := (exec_remove_ready hp).trans (removeBody_of_pos hpos hh)
    refine ⟨_, hrun, ?queue, ?head, ?count, rfl⟩
    case queue =>
      rw [State.queue_respond_spendTurn]
      exact s.queue_advanceHead hpos hh
    case head => exact nextIndex_toNat s.head
    case count => exact (count_pred hpos).1

/-- Settles O16: GETCOUNT is one response of `count`, and a response writes the trace alone. -/
theorem getcountAnswersCountAndChangesNothing :
    Obligations.GetcountAnswersCountAndChangesNothing := fun _ hp =>
  ⟨encode_getcount, rfl, _, exec_getcount_ready hp, rfl⟩

end Sys2Proof.Machine
end

section
/-! PROOF. CYCLE and DSTEP (41_frame_extractor.md R130 to R133): the two branches of CYCLE while
phase = Ready, the counters and the frame of a DSTEP, and the three ways the marker test can end it. -/

namespace Sys2Proof.Machine

/-! ## CYCLE -/

theorem encode_cycle : encode .cycle = 0x4000 := by decide

section

variable {s : State}

theorem exec_cycle_ready (hp : s.phase = .ready) : exec .cycle s = cycleBody s :=
  consumerCommand_ready hp cycleBody

theorem cycleBody_of_avail (h : Config.T ≤ s.count.toNat) :
    cycleBody s = .next (s.startDrain Config.WIN_INIT).spendTurn :=
  if_pos ((State.avail_iff s).mpr h)

theorem cycleBody_of_not_avail (h : ¬Config.T ≤ s.count.toNat) :
    cycleBody s = .next (s.idleFallback.emit (.cycle .idle)).spendTurn :=
  if_neg (mt (State.avail_iff s).mp h)

end

/-- Settles O22: `avail` picks the branch, and each branch writes the named fields alone. -/
theorem cycleStartsADrainOrFallsBackToIdle : Obligations.CycleStartsADrainOrFallsBackToIdle := by
  intro s hp
  refine ⟨encode_cycle, rfl, fun hten => ?_, fun hnine => ?_⟩
  · exact ⟨_, (exec_cycle_ready hp).trans (cycleBody_of_avail hten), rfl⟩
  · exact ⟨_, (exec_cycle_ready hp).trans (cycleBody_of_not_avail (Nat.not_le.mpr hnine)), rfl⟩

/-! ## The marker test -/

theorem isMarker_iff (w : Window) : isMarker w = true ↔ w[0] = 0xFF ∧ w[1] = 0xFE :=
  decide_eq_true_iff

theorem payloadOf_eq (w : Window) :
    payloadOf w = #v[w[2], w[3], w[4], w[5], w[6], w[7], w[8], w[9]] := by
  refine Vector.ext fun i hi => (payloadOf_get w hi).trans ?_
  have hlt : i < 8 := hi
  interval_cases i <;> rfl

section

variable {s : State} {w : Window}

theorem testWindow_of_marker (hm : isMarker w = true) :
    testWindow s w = ((s.setReport (payloadOf w)).endDrain).emit (.cycle (.matched s.k)) :=
  if_pos hm

theorem testWindow_of_last (hm : ¬isMarker w = true) (hk : s.k.toNat = Config.B) :
    testWindow s w = s.endDrain.emit (.cycle .noMatch) :=
  (if_neg hm).trans (if_pos hk)

theorem testWindow_of_more (hm : ¬isMarker w = true) (hk : s.k.toNat ≠ Config.B) :
    testWindow s w = s :=
  (if_neg hm).trans (if_neg hk)

end

/-! ## DSTEP -/

section

variable {s t : State}

/-- Every DSTEP advances the three counters of R131, however its marker test ends. -/
theorem dstep_counters (h : dstep s = .next t) :
    t.head = nextIndex s.head ∧ t.count = s.count - 1 ∧ t.k = s.k + 1 := by
  obtain ⟨w, -, -, -, rfl⟩ := dstep_next h
  obtain ⟨-, hhead, -, hcount, hk, -⟩ := testWindow_frame
    (s.advanceHead.shiftIn (shiftWindow w (s.storage.read s.head.toNat)))
    (shiftWindow w (s.storage.read s.head.toNat))
  exact ⟨hhead, hcount, hk⟩

/-- `dstep_frame` as one equation, the form in which the obligations state a frame. -/
theorem dstep_eq_with (h : dstep s = .next t) :
    t = { s with
      head := t.head, count := t.count, k := t.k, win := t.win, phase := t.phase,
      report := t.report, trace := t.trace } := by
  obtain ⟨hstorage, htail, hled, hind, hfault, hrefusal, hschedule, -⟩ := dstep_frame h
  rw [← hstorage, ← htail, ← hled, ← hind, ← hfault, ← hrefusal, ← hschedule]

end

theorem drainCount_succ {k : BitVec 4} (h : k.toNat < Config.B) : (k + 1).toNat = k.toNat + 1 :=
  BitVec.toNat_add_of_lt (Nat.lt_of_le_of_lt h (by decide : Config.B < 2 ^ 4))

/-- Settles O23: `dstep_of` names the next state, the counters and the frame do not depend on the marker
test, and each of its three ends is one equation of `testWindow`. -/
theorem dstepShiftsOneByteAndTestsTheMarker :
    Obligations.DstepShiftsOneByteAndTestsTheMarker := by
  intro s w hp hh hc hk hw
  have hrun := dstep_of s hc hh hw
  obtain ⟨hhead, hcount, hcycle⟩ := dstep_counters hrun
  refine ⟨_, _, hrun, fun i hi => shiftWindow_get_lt w _ (Nat.succ_lt_succ hi),
    shiftWindow_get_last w _, ?head, ?count, ?k, dstep_eq_with hrun, fun hm => ?matched,
    fun hm hten => ?ended, fun hm hten => ?goesOn⟩
  case head => rw [hhead, nextIndex_toNat]
  case count => rw [hcount, (count_pred hc).1]
  case k => rw [hcycle, drainCount_succ hk]
  case matched =>
    rw [testWindow_of_marker ((isMarker_iff _).mpr hm)]
    exact ⟨rfl, payloadOf_eq _, rfl⟩
  case ended =>
    rw [hcycle] at hten
    rw [testWindow_of_last (mt (isMarker_iff _).mp hm) hten]
    exact ⟨rfl, rfl, rfl⟩
  case goesOn =>
    rw [hcycle] at hten
    rw [testWindow_of_more (mt (isMarker_iff _).mp hm) hten]
    exact ⟨hp, rfl, rfl, rfl⟩

end Sys2Proof.Machine
end

section
/-! PROOF. RESET (70_reset_and_hazards.md R200): its one answer in every state, the fields that answer
writes, and the status values (10_state.md R28) of an empty buffer. -/

namespace Sys2Proof.Machine

theorem encode_reset : encode .reset = 0x7000 := by decide

/-- Ready or draining, RESET is never held. -/
theorem exec_reset (s : State) : exec .reset s = .next (s.clear.emit .reset).spendTurn := rfl

theorem idleReport_eq : idleReport = #v[0, 0, 0, 0, 0, 0, 0, 0] := by decide

/-- An empty buffer is far from C and from T, so `count = 0` fixes all three status values of R28. -/
theorem State.status_of_count_zero {s : State} (hc : s.count = 0) :
    s.empty = true ∧ s.full = false ∧ s.avail = false := by
  have hnat : s.count.toNat = 0 := congrArg BitVec.toNat hc
  refine ⟨(State.empty_iff s).mpr hc, Bool.eq_false_iff.mpr fun hfull => ?full,
    Bool.eq_false_iff.mpr fun havail => ?avail⟩
  case full => exact absurd (hnat.symm.trans ((State.full_iff s).mp hfull)) (by decide : 0 ≠ Config.C)
  case avail => exact absurd (hnat ▸ (State.avail_iff s).mp havail) (by decide : ¬Config.T ≤ 0)

/-- Settles O29: `exec_reset` answers in every phase, its assignments are those of R200 with the idle report
written out, and the count of 0 it leaves gives the status values. -/
theorem resetClearsTheBlockAndKeepsTheMarks : Obligations.ResetClearsTheBlockAndKeepsTheMarks := by
  intro s
  refine ⟨encode_reset, rfl, _, exec_reset s, ?frame, State.status_of_count_zero ?count⟩
  case frame =>
    rw [← idleReport_eq]
    rfl
  case count => exact State.clear_count s

end Sys2Proof.Machine
end

section
/-! PROOF. The encoder and the decoder are inverse to each other (30_encoding.md R73 to R75, R83), and the
byte lanes of the 64-bit report (20_memory.md R52). -/

namespace Sys2Proof

/-! ## The three fields of an encoded word -/

theorem opField_encode (i : Instr) : opField (encode i) = i.opName.opcode := by
  cases i <;> exact opField_packWord _ _ _

/-- The encoder writes 0 into every field R74 wants to be 0. -/
theorem fieldError_encode (i : Instr) : i.opName.fieldError (encode i) = false := by
  cases i <;>
    simp [encode, Instr.opName, OpName.fieldError, OpName.auxMustBeZero, OpName.dataMustBeZero]

theorem operandsOf_encode (i : Instr) : i.opName.operandsOf (encode i) = i := by
  cases i <;> simp [encode, Instr.opName, OpName.operandsOf]

theorem opNameOf_encode (i : Instr) : opNameOf (opField (encode i)) = some i.opName := by
  rw [opField_encode, opNameOf_opcode]

/-- The encoder packs the operation's op with the aux and data fields that hold its operands. -/
theorem encode_operandsOf_eq (m : OpName) (w : Word) :
    encode (m.operandsOf w) =
      packWord m.opcode (if m.auxMustBeZero then 0 else auxField w)
        (if m.dataMustBeZero then 0 else dataField w) := by
  cases m <;> rfl

/-- Without a field error the operands hold every bit of the word but the op. -/
theorem encode_operandsOf {m : OpName} {w : Word} (hop : opField w = m.opcode)
    (hf : m.fieldError w = false) : encode (m.operandsOf w) = w := by
  simp only [OpName.fieldError, Bool.or_eq_false_iff, Bool.and_eq_false_imp, decide_eq_false_iff_not,
    not_not] at hf
  obtain ⟨haux, hdata⟩ := hf
  have haux' : (if m.auxMustBeZero then 0 else auxField w) = auxField w :=
    ite_eq_right_iff.mpr fun h => (haux h).symm
  have hdata' : (if m.dataMustBeZero then 0 else dataField w) = dataField w :=
    ite_eq_right_iff.mpr fun h => (hdata h).symm
  rw [encode_operandsOf_eq, haux', hdata', ← hop, packWord_fields]

/-! ## Decode after encode, encode after decode -/

theorem decode_encode (i : Instr) : decode i.owner (encode i) = .ok i := by
  have hlegal : ¬i.opName.fieldError (encode i) = true := Bool.eq_false_iff.mp (fieldError_encode i)
  exact (decode_of_legal (opNameOf_encode i) rfl hlegal).trans (congrArg _ (operandsOf_encode i))

theorem issuerOf_encode (i : Instr) : issuerOf (encode i) = i.owner := by
  simp only [issuerOf, opNameOf_encode, Instr.owner]

theorem decode_ok_iff (a : Agent) (w : Word) (i : Instr) :
    decode a w = .ok i ↔ a = i.owner ∧ w = encode i := by
  constructor
  · intro h
    obtain ⟨m, hm, rfl, hf, rfl⟩ := decode_ok h
    exact ⟨congrArg OpName.owner (opName_operandsOf m w).symm,
      (encode_operandsOf (opNameOf_some hm) hf).symm⟩
  · rintro ⟨rfl, rfl⟩
    exact decode_encode i

theorem decodeTableWord_of_decode {w : Word} {i : Instr} (h : decode (issuerOf w) w = .ok i) :
    decodeTableWord 16 w.toNat = some i := by
  have hrange : 16 ≤ 16 ∧ w.toNat < 2 ^ 16 := ⟨le_rfl, w.isLt⟩
  simp only [decodeTableWord, if_pos hrange, BitVec.ofNat_toNat, BitVec.setWidth_eq, h]

theorem decode_of_decodeTableWord {w : Nat} {i : Instr} (h : decodeTableWord 16 w = some i) :
    decode (issuerOf (BitVec.ofNat 16 w)) (BitVec.ofNat 16 w) = .ok i := by
  simp only [decodeTableWord] at h
  split at h
  · split at h
    · next hd => rw [hd, Option.some.inj h]
    · cases h
  · cases h

/-- Settles O4: a word without a field error is the packing of its op and the operands the decoder took,
which is what the encoder packs. -/
theorem onlyTheOwnersEncodingIsAccepted : Obligations.OnlyTheOwnersEncodingIsAccepted :=
  decode_ok_iff

/-- Settles O3: the encoded word selects its own operation and has no field error; the issuer that the table
reading picks is the owner. -/
theorem decodeOfEncodeIsTheInstruction : Obligations.DecodeOfEncodeIsTheInstruction := fun i =>
  ⟨decode_encode i, decodeTableWord_of_decode (by rw [issuerOf_encode, decode_encode])⟩

/-- Settles O2: the accepted words are encodings presented by their owners (`decode_ok_iff`), and each refused
word meets the first check of R83 it fails. -/
theorem wordsDecodeAsTheTableWritesThem : Obligations.WordsDecodeAsTheTableWritesThem := by
  refine ⟨?insert, ?remove, ?getcount, ?cycle, ?snapshot, ?ledwr, ?reset, ?reservedZero, ?reservedHigh,
    ?agentInsert, ?agentReset, ?fieldRemove, ?fieldInsert⟩
  case reservedZero | reservedHigh => exact decode_of_reserved _ (by decide)
  case agentInsert => exact decode_of_wrong_agent (m := .insert) (by decide) (by decide)
  case agentReset => exact decode_of_wrong_agent (m := .reset) (by decide) (by decide)
  case fieldRemove => exact decode_of_field_error (m := .remove) (by decide) rfl (by decide)
  case fieldInsert => exact decode_of_field_error (m := .insert) (by decide) rfl (by decide)
  all_goals exact (decode_ok_iff _ _ _).mpr (by decide)

/-! ## The words as the numbers of the encoding table -/

theorem encode_insert (d : Byte) : encode (.insert d) = 0x1000 ||| d.setWidth 16 := by
  apply BitVec.eq_of_getLsbD_eq
  intro j hj
  simp only [encode, packWord, BitVec.getLsbD_or, BitVec.getLsbD_append]
  interval_cases j <;> simp

theorem encode_ledwr (len : BitVec 4) (v : Byte) :
    encode (.ledwr len v) = 0x6000 ||| (len.setWidth 16 <<< 8) ||| v.setWidth 16 := by
  apply BitVec.eq_of_getLsbD_eq
  intro j hj
  simp only [encode, packWord, BitVec.getLsbD_or, BitVec.getLsbD_append]
  interval_cases j <;> simp

theorem encode_snapshot : encode .snapshot = 0x5000 := by decide

/-! ## The byte lanes of the report -/

/-- Settles O6: the bus is built byte by byte, and a lane lies either in the low byte or in the word above it. -/
theorem reportByteLiesInItsBusLane : Obligations.ReportByteLiesInItsBusLane := by
  intro r ⟨lane, hlane⟩
  interval_cases lane
  · exact BitVec.extractLsb'_append_eq_right
  all_goals
    refine (BitVec.extractLsb'_append_eq_of_le (by simp)).trans ?_
    simp only [BitVec.extractLsb'_append_eq_of_le, BitVec.extractLsb'_append_eq_right,
      BitVec.extractLsb'_eq_self, Nat.reduceMul, Nat.reduceSub, Nat.reduceLeDiff]

end Sys2Proof
end

section
/-! PROOF. What operations and steps do, said once: the equations of `exec` that the sections above do not
have, the converse of `exec_next`, and `step_move`, the inversion of a step by whose turn it was
(60_exceptions.md R181 to R183). -/

namespace Sys2Proof.Machine

section

variable {i : Instr} {s t u : State} {d : Byte}

/-! ## Equations of `exec` -/

theorem exec_of_held (ho : i.owner = .consumer) (hp : s.phase = .drain) : exec i s = dstep s := by
  cases i with
  | remove | getcount | cycle | snapshot => exact consumerCommand_drain hp _
  | insert | ledwr | reset => cases ho

theorem exec_insert_of_full (hf : s.full = true) :
    exec (.insert d) s = .next ((s.respond .insert (.bit 0#1)).emit (.drop d)).spendTurn :=
  if_pos hf

theorem exec_insert_of_room (hf : s.full = false) (ht : s.tail.toNat < Config.C) :
    exec (.insert d) s =
      .next ((s.setStorage (s.storage.write s.tail.toNat d)).advanceTail.respond .insert
        (.bit 1#1)).spendTurn := by
  simp only [exec, execInsert, hf, rbPush_of_lt s d ht, Bool.false_eq_true, if_false]

theorem exec_remove_of_pos (hp : s.phase = .ready) (hc : s.count ≠ 0) (hh : s.head.toNat < Config.C) :
    exec .remove s =
      .next (s.advanceHead.respond .remove (.byte (s.storage.read s.head.toNat))).spendTurn :=
  (exec_remove_ready hp).trans (removeBody_of_pos hc hh)

theorem exec_snapshot_ready (hp : s.phase = .ready) :
    exec .snapshot s =
      .next ((s.respond .snapshot (.wide (reportBus s.report))).emit (.sent s.report)).spendTurn :=
  consumerCommand_ready hp snapshotBody

theorem exec_ledwr_accepted (v : Byte) (s : State) :
    exec (.ledwr 1 v) s =
      .next (((s.setLed v).setIndicator (indicatorOf v)).respond .ledwr (.bit 1#1)).spendTurn := rfl

theorem exec_ledwr_rejected {len : BitVec 4} (h : len ≠ 1) (v : Byte) (s : State) :
    exec (.ledwr len v) s = .next ((s.respond .ledwr (.bit 0#1)).emit (.ledReject len)).spendTurn :=
  if_neg (by simpa [lengthAccepted] using h)

/-- The converse of `exec_next`: an operation that is not held has its effect. -/
theorem exec_of_effect (ho : i.owner = .consumer → s.phase = .ready) (h : Effect i s t) :
    exec i s = .next t := by
  cases h with
  | dropped d hf => exact exec_insert_of_full hf
  | stored d hf ht => exact exec_insert_of_room hf ht
  | removed hc hh => exact exec_remove_of_pos (ho rfl) hc hh
  | counted => exact exec_getcount_ready (ho rfl)
  | drainStarts ha => exact (exec_cycle_ready (ho rfl)).trans (if_pos ha)
  | idles ha => exact (exec_cycle_ready (ho rfl)).trans (if_neg (Bool.eq_false_iff.mp ha))
  | sent => exact exec_snapshot_ready (ho rfl)
  | ledAccepted v => exact exec_ledwr_accepted v s
  | ledRejected len v hl => exact exec_ledwr_rejected hl v s
  | cleared => exact exec_reset s

/-! ## What every effect leaves -/

theorem Effect.marks (h : Effect i s t) :
    t.faultMark = s.faultMark ∧ t.refusalMark = s.refusalMark := by
  cases h <;> exact ⟨rfl, rfl⟩

theorem Effect.schedule (h : Effect i s t) : t.schedule = s.schedule.tail := by
  cases h <;> rfl

theorem Effect.trace (h : Effect i s t) : ∃ es, t.trace = s.trace ++ es := by
  cases h <;> simp [List.append_assoc]

/-! ## The step -/

theorem isHeld_false_iff (a : Agent) : isHeld s a = false ↔ ¬(a = .consumer ∧ s.phase = .drain) :=
  decide_eq_false_iff_not

section

variable {a : Agent} {w : Word} {rest : List Turn} {reason : RefuseReason}

/-- The hold of a consumer word in a drain is the same DSTEP as the hold in `exec` (log entry 3). -/
theorem step_of_decode_ok (hf : s.faultMark = none) (hs : s.schedule = .command a w :: rest)
    (hd : decode a w = .ok i) : step s = exec i s := by
  rw [step_of_command hf hs, issue]
  cases hheld : isHeld s a with
  | true =>
    obtain ⟨ha, hp⟩ : a = .consumer ∧ s.phase = .drain := of_decide_eq_true hheld
    exact (exec_of_held (((decode_ok_iff a w i).mp hd).1 ▸ ha) hp).symm
  | false => rw [if_neg Bool.false_ne_true, hd]

theorem step_of_decode_error (hf : s.faultMark = none) (hs : s.schedule = .command a w :: rest)
    (hn : ¬(a = .consumer ∧ s.phase = .drain)) (hd : decode a w = .error reason) :
    step s = .next (refuseWord s reason a w) := by
  rw [step_of_command hf hs, issue, (isHeld_false_iff a).mpr hn, if_neg Bool.false_ne_true, hd]

/-- Any word of the consumer is held in a drain, one that will be refused too (log entry 3). -/
theorem step_of_held (hf : s.faultMark = none) (hs : s.schedule = .command .consumer w :: rest)
    (hp : s.phase = .drain) : step s = dstep s := by
  have hheld : isHeld s .consumer = true := decide_eq_true ⟨rfl, hp⟩
  rw [step_of_command hf hs, issue, if_pos hheld, holdDrainBusy]

end

/-- A turn spent before a DSTEP might as well be spent after it: no DSTEP reads the schedule. -/
theorem dstep_spendTurn (h : dstep s = .next t) : dstep s.spendTurn = .next t.spendTurn := by
  obtain ⟨w, hc, hh, hw, rfl⟩ := dstep_next h
  rw [dstep_of s.spendTurn hc hh hw]
  rcases testWindow_cases (s.advanceHead.shiftIn (shiftWindow w (s.storage.read s.head.toNat)))
    (shiftWindow w (s.storage.read s.head.toNat)) with ⟨hm, ht⟩ | ⟨hm, hk, ht⟩ | ⟨hm, hk, ht⟩
  · rw [ht]
    exact congrArg _ (testWindow_of_marker hm)
  · rw [ht]
    exact congrArg _ (testWindow_of_last (Bool.eq_false_iff.mp hm) hk)
  · rw [ht]
    exact congrArg _ (testWindow_of_more (Bool.eq_false_iff.mp hm) hk)

theorem dstep_of_spendTurn (h : dstep s.spendTurn = .next t) :
    ∃ u, dstep s = .next u ∧ t = u.spendTurn := by
  obtain ⟨w, hc, hh, hw, -⟩ := dstep_next h
  have hrun := dstep_of s (w := w) hc hh hw
  exact ⟨_, hrun, Host.Outcome.next.inj (h.symm.trans (dstep_spendTurn hrun))⟩

/-- No other agent's word is next: the turn is the consumer's, or nobody's (log entry 2). -/
def ConsumerTurn (s : State) : Prop := ∀ a w rest, s.schedule = .command a w :: rest → a = .consumer

/-- Every next state of a step, by whose turn it was. A turn of the schedule's own kinds may or may not be
used up. -/
inductive Move (s : State) : State → Prop where
  | waits {t : State} (turn : ConsumerTurn s) (ready : s.phase = .ready) (spent : t = s ∨ t = s.spendTurn) :
      Move s t
  | drains {u t : State} (turn : ConsumerTurn s) (drain : s.phase = .drain) (dstep : dstep s = .next u)
      (spent : t = u ∨ t = u.spendTurn) : Move s t
  | refuses {a : Agent} {w : Word} {rest : List Turn} {reason : RefuseReason}
      (turn : s.schedule = .command a w :: rest) (error : decode a w = .error reason) :
      Move s (refuseWord s reason a w)
  | executes {t : State} {a : Agent} {w : Word} {rest : List Turn} {i : Instr}
      (turn : s.schedule = .command a w :: rest) (ok : decode a w = .ok i)
      (ready : i.owner = .consumer → s.phase = .ready) (effect : Effect i s t) : Move s t

/-- Another agent's word is refused or executed, never held. -/
theorem move_of_other_agent {a : Agent} {w : Word} {rest : List Turn} (hf : s.faultMark = none)
    (hs : s.schedule = .command a w :: rest) (ha : a ≠ .consumer) (h : step s = .next t) : Move s t := by
  cases hd : decode a w with
  | error reason =>
    rw [step_of_decode_error hf hs (fun hheld => ha hheld.1) hd] at h
    exact Host.Outcome.next.inj h ▸ .refuses hs hd
  | ok i =>
    rw [step_of_decode_ok hf hs hd] at h
    have hown : i.owner ≠ .consumer := ((decode_ok_iff a w i).mp hd).1 ▸ ha
    rcases exec_next h with ⟨ho, -, -⟩ | ⟨hready, he⟩
    · exact absurd ho hown
    · exact .executes hs hd hready he

/-- The inversion of a step: a waiting turn, a DSTEP, a refused word or an operation's effect. -/
theorem step_move (h : step s = .next t) : Move s t := by
  obtain ⟨hf, hcases⟩ := step_next_cases h
  by_cases hturn : ConsumerTurn s
  · rcases hcases with ⟨-, hp, rfl⟩ | ⟨a, w, rest, reason, hs, -, hd, rfl⟩ |
      ⟨a, w, rest, i, hs, hheld, hd, he⟩ | ⟨hp, hd⟩ | ⟨rest, -, hp, hd⟩ | ⟨rest, -, hp, rfl⟩ |
      ⟨rest, u, -, hp, hd, -, rfl⟩
    · exact .waits hturn hp (.inl rfl)
    · exact .refuses hs hd
    · rcases exec_next he with ⟨-, hp, hd'⟩ | ⟨hready, he⟩
      · exact .drains hturn hp hd' (.inl rfl)
      · exact .executes hs hd hready he
    · exact .drains hturn hp hd (.inl rfl)
    · obtain ⟨u, hu, rfl⟩ := dstep_of_spendTurn hd
      exact .drains hturn hp hu (.inr rfl)
    · exact .waits hturn hp (.inr rfl)
    · exact .drains hturn hp hd (.inr rfl)
  · obtain ⟨a, w, rest, hs, ha⟩ : ∃ a w rest, s.schedule = .command a w :: rest ∧ a ≠ .consumer := by
      simpa [ConsumerTurn] using hturn
    exact move_of_other_agent hf hs ha h

end

end Sys2Proof.Machine
end

section
/-! PROOF. Single steps and single operations: the reset state, a presented word that runs or is refused, the
stop after a fault, what a step does to the marks, the trace and the schedule, and who writes what
(10_state.md, 60_exceptions.md R171 to R185). -/

namespace Sys2Proof.Machine

/-- Settles O7: the fields as `State.reset` writes them; a slot that the empty storage does not list is blank. -/
theorem resetStateHoldsTheSpecsValues : Obligations.ResetStateHoldsTheSpecsValues :=
  ⟨rfl, rfl, rfl, rfl, rfl, rfl, idleReport_eq, rfl, rfl, rfl, rfl, rfl, fun _ _ => rfl⟩

/-- Settles O8: held or not, a decoded word does what `exec` does with it. -/
theorem stepExecutesTheDecodedCommand : Obligations.StepExecutesTheDecodedCommand :=
  fun _ _ _ _ _ hf hs hd => step_of_decode_ok hf hs hd

/-- Settles O9: what the table reads is what the decoder reads from the word's own issuer. -/
theorem presentedTableWordIsRunNext : Obligations.PresentedTableWordIsRunNext :=
  fun _ _ _ hf hw => step_of_decode_ok hf rfl (decode_of_decodeTableWord hw)

/-! ## Refusal and fault -/

theorem State.markRefusal_of_none {s : State} (h : s.refusalMark = none) (m : RefusalMark) :
    s.markRefusal m = { s with refusalMark := some m } := by
  simp only [State.markRefusal, h]

theorem State.markRefusal_of_ne_none {s : State} (h : s.refusalMark ≠ none) (m : RefusalMark) :
    s.markRefusal m = s := by
  obtain ⟨first, hfirst⟩ := Option.ne_none_iff_exists'.mp h
  simp only [State.markRefusal, hfirst]
  rw [← hfirst]

theorem State.spendTurn_of_cons {s : State} {turn : Turn} {rest : List Turn}
    (hs : s.schedule = turn :: rest) : s.spendTurn = { s with schedule := rest } := by
  simp only [State.spendTurn, hs, List.tail_cons]

/-- Settles O10: a word that is not held is decoded, and a refusal is the mark and the used turn. -/
theorem refusedWordSetsTheMarkAndNothingElse : Obligations.RefusedWordSetsTheMarkAndNothingElse := by
  intro s a w rest r hf hs hn hd
  have hstep := step_of_decode_error hf hs hn hd
  refine ⟨fun hfirst => ?first, fun hlater => ?later⟩
  case first =>
    rw [hstep, refuseWord, State.markRefusal_of_none hfirst]
    exact congrArg _ (State.spendTurn_of_cons hs)
  case later =>
    rw [hstep, refuseWord, State.markRefusal_of_ne_none hlater, State.spendTurn_of_cons hs]

/-- Settles O11: the first step of such a run is the fault `quiescent`. -/
theorem faultedMachineTakesNoStep : Obligations.FaultedMachineTakesNoStep := by
  intro s m n t hm hrun
  obtain ⟨u, hstep, -⟩ := run_next hrun
  rw [step_of_fault hm] at hstep
  cases hstep

/-! ## Marks, trace, schedule -/

/-- Settles O12: a DSTEP and an effect leave both marks and add events; a refused word writes the refusal mark
alone, and only when it is none. -/
theorem marksStayAndTraceOnlyGrows : Obligations.MarksStayAndTraceOnlyGrows := by
  intro s t h
  cases step_move h with
  | waits _ _ spent =>
    rcases spent with rfl | rfl <;> exact ⟨rfl, fun _ hm => hm, [], (List.append_nil _).symm⟩
  | drains _ _ hd spent =>
    obtain ⟨-, -, -, -, hfault, hrefusal, -, htrace⟩ := dstep_frame hd
    rcases spent with rfl | rfl <;> exact ⟨hfault, fun _ hm => hrefusal.trans hm, htrace⟩
  | refuses => exact ⟨rfl, fun m hm => by simp [refuseWord, hm], [], (List.append_nil _).symm⟩
  | executes _ _ _ he =>
    obtain ⟨hfault, hrefusal⟩ := he.marks
    exact ⟨hfault, fun _ hm => hrefusal.trans hm, he.trace⟩

/-- Settles O13: a held operation is a DSTEP, which leaves the schedule; every effect uses one turn up. -/
theorem eachExecutedCommandUsesOneTurn : Obligations.EachExecutedCommandUsesOneTurn := by
  intro i s t h
  rcases exec_next h with ⟨ho, hp, hd⟩ | ⟨hready, he⟩
  · obtain ⟨-, -, -, -, -, -, hschedule, -⟩ := dstep_frame hd
    exact ⟨fun hnot => by simp [ho, hp] at hnot, fun _ _ => hschedule⟩
  · exact ⟨fun _ => he.schedule, fun ho hp => by simp [hready ho] at hp⟩

/-- Settles O31: the hold of `exec`, and the schedule of O13. -/
theorem consumerCommandsAreHeldInADrain : Obligations.ConsumerCommandsAreHeldInADrain := by
  intro i s hi hp
  have ho : i.owner = .consumer := by rcases hi with rfl | rfl | rfl | rfl <;> rfl
  exact ⟨exec_of_held ho hp, fun t ht => (eachExecutedCommandUsesOneTurn i s t ht).2 ho hp⟩

/-! ## INSERT, SNAPSHOT, LEDWR -/

/-- Settles O14: `full` picks the branch; the storing one is a single write at `tail` (`Memory.read_write`). -/
theorem insertStoresAtTailOrDropsWhenFull : Obligations.InsertStoresAtTailOrDropsWhenFull := by
  intro d s ht hwf
  refine ⟨encode_insert d, rfl, fun hfull => ?dropped, fun hroom => ?stored⟩
  case dropped =>
    refine ⟨_, exec_insert_of_full ((State.full_iff s).mpr hfull), ?_⟩
    simp [State.spendTurn, State.emit, State.respond, OpName.owner]
  case stored =>
    have hf : s.full = false := Bool.eq_false_iff.mpr (mt (State.full_iff s).mp hroom)
    exact ⟨_, exec_insert_of_room hf ht, Memory.read_write_same hwf _ d,
      fun _ ha => Memory.read_write_other hwf ha d, Memory.wf_write hwf ht d,
      nextIndex_toNat s.tail, count_succ hroom, rfl, rfl⟩

/-- Settles O27: a response and an event write the trace alone. -/
theorem snapshotAnswersTheReportAndChangesNothing :
    Obligations.SnapshotAnswersTheReportAndChangesNothing := fun s hp =>
  ⟨encode_snapshot, rfl, _, exec_snapshot_ready hp, by
    simp [State.spendTurn, State.emit, State.respond, OpName.owner]⟩

/-- The Caps Lock mask of R157 is bit 1. -/
theorem indicatorOf_eq (v : Byte) : indicatorOf v = v.getLsbD 1 := by
  revert v; decide

/-- Settles O28: the length picks the branch, and the mask of R157 is bit 1. -/
theorem ledwrIsAcceptedAtLengthOneOnly : Obligations.LedwrIsAcceptedAtLengthOneOnly := by
  intro len v s
  refine ⟨encode_ledwr len v, rfl, ?accepted, fun hl => ⟨_, exec_ledwr_rejected hl v s, ?rejected⟩⟩
  case accepted =>
    rintro rfl
    refine ⟨_, exec_ledwr_accepted v s, ?_⟩
    rw [← indicatorOf_eq]
    rfl
  case rejected => simp [State.spendTurn, State.emit, State.respond, OpName.owner]

/-! ## Who writes what -/

section

variable {i : Instr} {s t : State}

/-- The producer owns INSERT alone, which writes storage, `tail` and `count`. -/
theorem Effect.producer_frame (h : Effect i s t) (ho : i.owner = .producer) :
    t.head = s.head ∧ t.phase = s.phase ∧ t.k = s.k ∧ t.win = s.win ∧ t.report = s.report ∧
      t.ledBits = s.ledBits ∧ t.indOut = s.indOut ∧ (t.count = s.count ∨ t.count = s.count + 1) := by
  cases h with
  | dropped => exact ⟨rfl, rfl, rfl, rfl, rfl, rfl, rfl, .inl rfl⟩
  | stored => exact ⟨rfl, rfl, rfl, rfl, rfl, rfl, rfl, .inr rfl⟩
  | _ => cases ho

/-- The host owns LEDWR alone, which writes `ledBits` and the indicator. -/
theorem Effect.host_frame (h : Effect i s t) (ho : i.owner = .host) :
    t.storage = s.storage ∧ t.head = s.head ∧ t.tail = s.tail ∧ t.count = s.count ∧
      t.phase = s.phase ∧ t.k = s.k ∧ t.win = s.win ∧ t.report = s.report := by
  cases h with
  | ledAccepted | ledRejected => exact ⟨rfl, rfl, rfl, rfl, rfl, rfl, rfl, rfl⟩
  | _ => cases ho

/-- No operation of the consumer writes storage, `tail` or `ledBits`; only the idle CYCLE writes the
indicator. -/
theorem Effect.consumer_frame (h : Effect i s t) (ho : i.owner = .consumer) :
    t.storage = s.storage ∧ t.tail = s.tail ∧ t.ledBits = s.ledBits ∧
      (t.count = s.count ∨ t.count = s.count - 1) ∧
      (t.indOut = s.indOut ∨ t.indOut = false ∧ s.count.toNat < 10) := by
  cases h with
  | removed => exact ⟨rfl, rfl, rfl, .inr rfl, .inl rfl⟩
  | counted | drainStarts | sent => exact ⟨rfl, rfl, rfl, .inl rfl, .inl rfl⟩
  | idles ha =>
    have hlow : s.count.toNat < 10 :=
      Nat.lt_of_not_le (mt (State.avail_iff s).mpr (Bool.eq_false_iff.mp ha))
    exact ⟨rfl, rfl, rfl, .inl rfl, .inr ⟨rfl, hlow⟩⟩
  | _ => cases ho

/-- The indicator rises by an accepted LEDWR alone. -/
theorem Effect.indOut_rises (h : Effect i s t) (h0 : s.indOut = false) (h1 : t.indOut = true) :
    ∃ v : Byte, i = .ledwr 1 v ∧ v.getLsbD 1 = true ∧ t.ledBits = v := by
  cases h with
  | ledAccepted v => exact ⟨v, rfl, (indicatorOf_eq v).symm.trans h1, rfl⟩
  | idles | cleared => cases h1
  | _ => exact absurd (h0.symm.trans h1) Bool.false_ne_true

end

/-- Settles O30: only an effect writes the indicator upwards, and the accepted word is the LEDWR's encoding. -/
theorem indicatorRisesOnlyByAHostWrite : Obligations.IndicatorRisesOnlyByAHostWrite := by
  intro s t h h0 h1
  have hne : t.indOut ≠ s.indOut := by simp [h0, h1]
  cases step_move h with
  | waits _ _ spent => rcases spent with rfl | rfl <;> exact absurd rfl hne
  | drains _ _ hd spent =>
    obtain ⟨-, -, -, hind, -⟩ := dstep_frame hd
    rcases spent with rfl | rfl <;> exact absurd hind hne
  | refuses => exact absurd rfl hne
  | executes hs hd _ he =>
    obtain ⟨v, rfl, hv, hled⟩ := he.indOut_rises h0 h1
    obtain ⟨rfl, rfl⟩ := (decode_ok_iff _ _ _).mp hd
    exact ⟨v, _, hs, hv, hled⟩

/-- Settles O33: an executed word is its owner's, so each clause is the frame of one agent's operations; a DSTEP
has `dstep_frame` and `dstep_counters`. -/
theorem eachAgentWritesOnlyWhatItOwns : Obligations.EachAgentWritesOnlyWhatItOwns := by
  intro s t h
  cases step_move h with
  | waits turn _ spent =>
    refine ⟨fun _ _ hs => absurd (turn _ _ _ hs) nofun, fun _ _ hs => absurd (turn _ _ _ hs) nofun,
      fun _ => ?_⟩
    rcases spent with rfl | rfl <;> exact ⟨rfl, rfl, rfl, .inl rfl, .inl rfl⟩
  | drains turn _ hd spent =>
    refine ⟨fun _ _ hs => absurd (turn _ _ _ hs) nofun, fun _ _ hs => absurd (turn _ _ _ hs) nofun,
      fun _ => ?_⟩
    obtain ⟨hstorage, htail, hled, hind, -⟩ := dstep_frame hd
    obtain ⟨-, hcount, -⟩ := dstep_counters hd
    rcases spent with rfl | rfl <;> exact ⟨hstorage, htail, hled, .inr hcount, .inl hind⟩
  | refuses =>
    exact ⟨fun _ _ _ => ⟨rfl, rfl, rfl, rfl, rfl, rfl, rfl, .inl rfl⟩,
      fun _ _ _ => ⟨rfl, rfl, rfl, rfl, rfl, rfl, rfl, rfl⟩,
      fun _ => ⟨rfl, rfl, rfl, .inl rfl, .inl rfl⟩⟩
  | @executes _ a w rest i hs hd hready he =>
    have ha : a = i.owner := ((decode_ok_iff a w i).mp hd).1
    have howner : ∀ {b w' rest'}, s.schedule = .command b w' :: rest' → i.owner = b := fun hs' => by
      rw [hs] at hs'
      cases hs'
      exact ha.symm
    refine ⟨fun _ _ hs' => he.producer_frame (howner hs'), fun _ _ hs' => he.host_frame (howner hs'),
      fun hturn => ?_⟩
    have hconsumer : i.owner = .consumer := ha.symm.trans (hturn a w rest hs)
    obtain ⟨hstorage, htail, hled, hcount, hind⟩ := he.consumer_frame hconsumer
    exact ⟨hstorage, htail, hled, hcount, hind.imp_right fun ⟨hoff, hlow⟩ =>
      ⟨hoff, hready hconsumer, hlow⟩⟩

/-- Settles O35: the later write of `ind_out` stands; nothing else is written by both. -/
theorem indicatorRaceIsDecidedByTheOrder : Obligations.IndicatorRaceIsDecidedByTheOrder := by
  intro s v hp hlow
  have hidle : ∀ u : State, u.phase = .ready → u.count = s.count →
      exec .cycle u = .next (u.idleFallback.emit (.cycle .idle)).spendTurn := fun u hu hc =>
    (exec_cycle_ready hu).trans (cycleBody_of_not_avail (by rw [hc]; exact Nat.not_le.mpr hlow))
  have hledFirst : Safety.execAll [.ledwr 1 v, .cycle] s = _ :=
    (execAll_cons_next (exec_ledwr_accepted v s)).trans (execAll_cons_next (hidle _ hp rfl))
  have hcycleFirst : Safety.execAll [.cycle, .ledwr 1 v] s = _ :=
    (execAll_cons_next (hidle s hp rfl)).trans (execAll_cons_next (exec_ledwr_accepted v _))
  exact ⟨_, _, hledFirst, hcycleFirst, rfl, indicatorOf_eq v, rfl, rfl,
    ⟨rfl, rfl, rfl, rfl, rfl, rfl, rfl, rfl, rfl, rfl⟩⟩

end Sys2Proof.Machine
end

section
/-! PROOF. The invariant (10_state.md R26, R29, R40; 41_frame_extractor.md R134, R135): every step keeps it,
and from it a step stops in two cases only (60_exceptions.md R171, 30_encoding.md R82). -/

namespace Sys2Proof.Machine

open Sys2Proof.Safety

section

variable {i : Instr} {s t : State} {w : Window}

/-! ## The ring -/

theorem ringInv_congr (h : RingInv s) (hhead : t.head = s.head) (htail : t.tail = s.tail)
    (hcount : t.count = s.count) : RingInv t := by
  simpa only [RingInv, hhead, htail, hcount] using h

theorem ringInv_advanceTail (h : RingInv s) (hc : s.count.toNat ≠ Config.C) : RingInv s.advanceTail := by
  obtain ⟨hcount, hhead, -, htail⟩ := h
  simp only [RingInv, State.advanceTail_count, State.advanceTail_head, State.advanceTail_tail,
    nextIndex_toNat, count_succ hc, htail, Config.C] at *
  omega

theorem ringInv_advanceHead (h : RingInv s) (hc : s.count ≠ 0) : RingInv s.advanceHead := by
  obtain ⟨hcount, hhead, -, htail⟩ := h
  obtain ⟨hpred, hpos⟩ := count_pred hc
  simp only [RingInv, State.advanceHead_count, State.advanceHead_head, State.advanceHead_tail,
    nextIndex_toNat, hpred, htail, Config.C] at *
  omega

theorem count_le_of_inv (h : Inv s) : s.count.toNat ≤ 255 := by
  obtain ⟨hcount, -⟩ := h.ring
  exact hcount

theorem head_lt_of_inv (h : Inv s) : s.head.toNat < Config.C := by
  obtain ⟨-, hhead, -⟩ := h.ring
  exact hhead

theorem tail_lt_of_inv (h : Inv s) : s.tail.toNat < Config.C := by
  obtain ⟨-, -, htail, -⟩ := h.ring
  exact htail

theorem tail_eq_of_inv (h : Inv s) : s.tail.toNat = (s.head.toNat + s.count.toNat) % Config.C := by
  obtain ⟨-, -, -, htail⟩ := h.ring
  exact htail

theorem ringInv_reset : RingInv State.reset := by decide

/-- `head = tail` is both the empty and the full ring (10_state.md R26). -/
theorem ringInv_head_eq_tail_iff (h : RingInv s) :
    s.head = s.tail ↔ s.count.toNat = 0 ∨ s.count.toNat = 255 := by
  obtain ⟨hcount, hhead, -, htail⟩ := h
  rw [← BitVec.toNat_inj, htail]
  simp only [Config.C] at *
  omega

/-- The ring part alone passes through every operation; no other part of the invariant is needed for it. -/
theorem Effect.ringInv (he : Effect i s t) (h : RingInv s) : RingInv t := by
  cases he with
  | stored d hroom _ =>
    exact ringInv_advanceTail (s := s.setStorage _) h (mt (State.full_iff s).mpr (by simp [hroom]))
  | removed hc _ => exact ringInv_advanceHead h hc
  | cleared => exact ringInv_reset
  | _ => exact h

theorem dstep_ringInv (hd : dstep s = .next t) (h : RingInv s) : RingInv t := by
  obtain ⟨w, hc, -⟩ := dstep_next hd
  obtain ⟨hhead, hcount, -⟩ := dstep_counters hd
  obtain ⟨-, htail, -⟩ := dstep_frame hd
  exact ringInv_congr (ringInv_advanceHead h hc) hhead htail hcount

theorem exec_ringInv (he : exec i s = .next t) (h : RingInv s) : RingInv t := by
  rcases exec_next he with ⟨-, -, hd⟩ | ⟨-, he⟩
  · exact dstep_ringInv hd h
  · exact he.ringInv h

/-! ## The drain -/

/-- A DSTEP ends the cycle and drops the window, or it is not the B-th and the shifted window stays. -/
theorem dstep_ends_or_goesOn (hd : dstep s = .next t) :
    t.phase = .ready ∧ t.win = none ∨
    ∃ w, s.win = some w ∧ (s.k + 1).toNat ≠ Config.B ∧
      t = s.advanceHead.shiftIn (shiftWindow w (s.storage.read s.head.toNat)) := by
  obtain ⟨w, -, -, hw, rfl⟩ := dstep_next hd
  rcases testWindow_cases (s.advanceHead.shiftIn (shiftWindow w (s.storage.read s.head.toNat)))
    (shiftWindow w (s.storage.read s.head.toNat)) with ⟨-, ht⟩ | ⟨-, -, ht⟩ | ⟨-, hk, ht⟩
  · exact .inl (ht ▸ ⟨rfl, rfl⟩)
  · exact .inl (ht ▸ ⟨rfl, rfl⟩)
  · exact .inr ⟨w, hw, hk, ht⟩

theorem windowSlot_of_win (hw : s.win = some w) (i : Nat) : windowSlot s i = w[i]? := by
  simp only [windowSlot, hw]

/-- Each byte shifted in moves the window's content one slot down. -/
theorem windowSlot_shiftIn (hw : s.win = some w) (b : Byte) {i : Nat} (hi : i + 1 < Config.W) :
    windowSlot (s.advanceHead.shiftIn (shiftWindow w b)) i = windowSlot s (i + 1) := by
  rw [windowSlot_of_win hw, windowSlot_of_win (State.shiftIn_win _ _),
    Vector.getElem?_eq_getElem (Nat.lt_of_succ_lt hi), Vector.getElem?_eq_getElem hi,
    shiftWindow_get_lt w b hi]

/-- What the invariant says of a drain in progress, in the form in which a DSTEP needs it. -/
theorem drain_ready_of_inv (h : Inv s) (hp : s.phase = .drain) :
    s.k.toNat < 10 ∧ 10 ≤ s.count.toNat + s.k.toNat ∧ s.count ≠ 0 ∧ s.head.toNat < Config.C ∧
      ∃ w, s.win = some w := by
  obtain ⟨hk, hcount, hwin, -⟩ := h.drain hp
  refine ⟨hk, hcount, fun hzero => ?_, head_lt_of_inv h, Option.isSome_iff_exists.mp hwin⟩
  have hnat : s.count.toNat = 0 := congrArg BitVec.toNat hzero
  simp only [hnat, Config.B, Config.T] at hk hcount
  omega

theorem dstep_drainInv (h : Inv s) (hp : s.phase = .drain) (hd : dstep s = .next t) : DrainInv t := by
  rcases dstep_ends_or_goesOn hd with ⟨hready, -⟩ | ⟨w, hw, hnot, rfl⟩
  · exact fun hdrain => absurd (hready.symm.trans hdrain) nofun
  · obtain ⟨hk, hcount, -, hslots⟩ := h.drain hp
    obtain ⟨-, -, hc, -⟩ := drain_ready_of_inv h hp
    have hsucc := drainCount_succ hk
    obtain ⟨hpred, hpos⟩ := count_pred hc
    rw [hsucc] at hnot
    simp only [DrainInv, State.shiftIn_k, State.advanceHead_k, State.shiftIn_count,
      State.advanceHead_count, State.shiftIn_win, hsucc, hpred]
    refine fun _ => ⟨by omega, by omega, rfl, fun i hi => ?_⟩
    have hnext : i.val + 1 < Config.W := by omega
    rw [windowSlot_shiftIn hw _ hnext, hslots ⟨i.val + 1, hnext⟩ (by simp only; omega)]
    simp only [Nat.add_assoc, Nat.add_comm 1]

theorem dstep_inv (h : Inv s) (hp : s.phase = .drain) (hd : dstep s = .next t) : Inv t := by
  obtain ⟨hstorage, -, -, -, -, hrefusal, -⟩ := dstep_frame hd
  refine ⟨dstep_ringInv hd h.ring, (congrArg Memory.wf hstorage).trans h.storage,
    dstep_drainInv h hp hd, fun hready => ?window, fun m hm => h.refusal m (hrefusal ▸ hm)⟩
  rcases dstep_ends_or_goesOn hd with ⟨-, hwin⟩ | ⟨w, -, -, rfl⟩
  · exact hwin
  · exact absurd (hp.symm.trans hready) nofun

/-! ## Operations and steps -/

theorem inv_spendTurn (h : Inv s) : Inv s.spendTurn :=
  ⟨h.ring, h.storage, h.drain, h.window, h.refusal⟩

theorem winInit_slots :
    ∀ i : Fin Config.W, i.val + (0 : BitVec 4).toNat < Config.W →
      Config.WIN_INIT[i.val]? = some (Config.WIN_INIT.toList.getD (i.val + (0 : BitVec 4).toNat) 0) := by
  decide

/-- A drain starts with k = 0, so that every slot of the window still holds WIN_INIT. -/
theorem drainInv_startDrain (ha : s.avail = true) : DrainInv (s.startDrain Config.WIN_INIT) :=
  fun _ => ⟨(by decide : 0 < Config.B), (State.avail_iff s).mp ha, rfl, winInit_slots⟩

theorem Effect.inv (he : Effect i s t) (ready : i.owner = .consumer → s.phase = .ready) (h : Inv s) :
    Inv t := by
  have hring := he.ringInv h.ring
  cases he with
  | stored d hroom ht =>
    have hsucc := count_succ (mt (State.full_iff s).mpr (by simp [hroom]))
    refine ⟨hring, Memory.wf_write h.storage ht d, fun hp => ?drain, h.window, h.refusal⟩
    obtain ⟨hk, hcount, hrest⟩ := h.drain hp
    exact ⟨hk, hcount.trans (Nat.add_le_add_right (hsucc ▸ Nat.le_succ _) _), hrest⟩
  | removed =>
    exact ⟨hring, h.storage, fun hp => absurd ((ready rfl).symm.trans hp) nofun, h.window, h.refusal⟩
  | drainStarts ha => exact ⟨hring, h.storage, drainInv_startDrain ha, nofun, h.refusal⟩
  | cleared => exact ⟨hring, h.storage, nofun, fun _ => rfl, h.refusal⟩
  | _ => exact ⟨hring, h.storage, h.drain, h.window, h.refusal⟩

theorem exec_inv (h : Inv s) (he : exec i s = .next t) : Inv t := by
  rcases exec_next he with ⟨-, hp, hd⟩ | ⟨hready, he⟩
  · exact dstep_inv h hp hd
  · exact he.inv hready h

/-- A refused word leaves a mark that names it, or the mark that was there. -/
theorem refuseWord_inv {a : Agent} {w : Word} {reason : RefuseReason} (h : Inv s)
    (hd : decode a w = .error reason) : Inv (refuseWord s reason a w) := by
  refine ⟨h.ring, h.storage, h.drain, h.window, fun m hm => ?refusal⟩
  cases hfirst : s.refusalMark with
  | none =>
    simp only [refuseWord, State.spendTurn_refusalMark, State.markRefusal_refusalMark, hfirst] at hm
    exact Option.some.inj hm ▸ hd
  | some first =>
    simp only [refuseWord, State.spendTurn_refusalMark, State.markRefusal_refusalMark, hfirst] at hm
    exact h.refusal m (hfirst.trans hm)

theorem step_inv (h : Inv s) (hstep : step s = .next t) : Inv t := by
  cases step_move hstep with
  | waits _ _ spent =>
    rcases spent with rfl | rfl
    · exact h
    · exact inv_spendTurn h
  | drains _ hp hd spent =>
    have hu := dstep_inv h hp hd
    rcases spent with rfl | rfl
    · exact hu
    · exact inv_spendTurn hu
  | refuses _ hd => exact refuseWord_inv h hd
  | executes _ _ hready he => exact he.inv hready h

theorem inv_startWith (turns : List Turn) : Inv (startWith turns) :=
  ⟨ringInv_reset, Memory.wf_nil, nofun, fun _ => rfl, nofun⟩

/-! ## Progress -/

theorem dstep_of_inv (h : Inv s) (hp : s.phase = .drain) : ∃ t, dstep s = .next t := by
  obtain ⟨-, -, hc, hh, w, hw⟩ := drain_ready_of_inv h hp
  exact ⟨_, dstep_of s hc hh hw⟩

/-- From the invariant every operation has its effect, REMOVE on an empty buffer apart. -/
theorem effect_of_inv (h : Inv s) (i : Instr) (hn : ¬(i = .remove ∧ s.count = 0)) :
    ∃ t, Effect i s t := by
  cases i with
  | insert d =>
    cases hf : s.full with
    | true => exact ⟨_, .dropped d hf⟩
    | false => exact ⟨_, .stored d hf (tail_lt_of_inv h)⟩
  | remove => exact ⟨_, .removed (fun hc => hn ⟨rfl, hc⟩) (head_lt_of_inv h)⟩
  | getcount => exact ⟨_, .counted⟩
  | cycle =>
    cases ha : s.avail with
    | true => exact ⟨_, .drainStarts ha⟩
    | false => exact ⟨_, .idles ha⟩
  | snapshot => exact ⟨_, .sent⟩
  | ledwr len v =>
    by_cases hl : len = 1
    · exact hl ▸ ⟨_, .ledAccepted v⟩
    · exact ⟨_, .ledRejected len v hl⟩
  | reset => exact ⟨_, .cleared⟩

theorem exec_progress (h : Inv s) (i : Instr) :
    (∃ t, exec i s = .next t) ∨
      (i = .remove ∧ s.phase = .ready ∧ s.count = 0 ∧ exec i s = .fault (raiseRemoveEmpty s)) := by
  cases hp : s.phase with
  | drain =>
    refine .inl ?_
    by_cases ho : i.owner = .consumer
    · rw [exec_of_held ho hp]
      exact dstep_of_inv h hp
    · obtain ⟨t, he⟩ := effect_of_inv h i fun ⟨hi, _⟩ => ho (hi ▸ rfl)
      exact ⟨t, exec_of_effect (fun ho' => absurd ho' ho) he⟩
  | ready =>
    by_cases hn : i = .remove ∧ s.count = 0
    · obtain ⟨rfl, hc⟩ := hn
      exact .inr ⟨rfl, rfl, hc, (exec_remove_ready hp).trans (removeBody_of_empty hc)⟩
    · obtain ⟨t, he⟩ := effect_of_inv h i hn
      exact .inl ⟨t, exec_of_effect (fun _ => hp) he⟩

theorem dstepTurn_drain (hp : s.phase = .drain) : dstepTurn s = dstep s.spendTurn := by
  simp only [dstepTurn, hp]

theorem dstepTurn_ready (hp : s.phase = .ready) : dstepTurn s = .refused .dstepNotEnabled := by
  simp only [dstepTurn, hp]

theorem drainTurn_ready (hp : s.phase = .ready) : drainTurn s = .next s.spendTurn := by
  simp only [drainTurn, hp]

theorem drainTurn_drain (hp : s.phase = .drain) (hd : dstep s = .next t) :
    drainTurn s = .next (if t.phase = .ready then t.spendTurn else t) := by
  simp only [drainTurn, hp, hd]

theorem idleTurn_drain (hp : s.phase = .drain) : idleTurn s = dstep s := by
  simp only [idleTurn, hp]

theorem idleTurn_ready (hp : s.phase = .ready) : idleTurn s = .next s := by
  simp only [idleTurn, hp]

/-- The turns that are no command stop a step in one case only, `C: DSTEP` in Ready (log entry 4). -/
theorem step_progress_of_no_command (h : Inv s) (hf : s.faultMark = none)
    (hn : ∀ a w rest, s.schedule ≠ .command a w :: rest) :
    (∃ t, step s = .next t) ∨
      (s.phase = .ready ∧ (∃ rest, s.schedule = .dstep :: rest) ∧ step s = .refused .dstepNotEnabled) := by
  cases hs : s.schedule with
  | nil =>
    rw [step_of_nil hf hs]
    cases hp : s.phase with
    | drain => exact .inl (idleTurn_drain hp ▸ dstep_of_inv h hp)
    | ready => exact .inl ⟨s, idleTurn_ready hp⟩
  | cons turn rest =>
    cases turn with
    | command a w => exact absurd hs (hn a w rest)
    | dstep =>
      rw [step_of_dstep hf hs]
      cases hp : s.phase with
      | drain => exact .inl (dstepTurn_drain hp ▸ dstep_of_inv (inv_spendTurn h) hp)
      | ready => exact .inr ⟨rfl, ⟨rest, rfl⟩, dstepTurn_ready hp⟩
    | drain =>
      rw [step_of_drain hf hs]
      cases hp : s.phase with
      | drain =>
        obtain ⟨t, hd⟩ := dstep_of_inv h hp
        exact .inl ⟨_, drainTurn_drain hp hd⟩
      | ready => exact .inl ⟨_, drainTurn_ready hp⟩

/-- A presented word stops a step in one case only, REMOVE on an empty buffer. -/
theorem step_progress_of_command {a : Agent} {w : Word} {rest : List Turn} (h : Inv s)
    (hf : s.faultMark = none) (hs : s.schedule = .command a w :: rest) :
    (∃ t, step s = .next t) ∨
      (s.phase = .ready ∧ s.count = 0 ∧ (a = .consumer ∧ w = 0x2000) ∧
        step s = .fault (raiseRemoveEmpty s)) := by
  by_cases hheld : a = .consumer ∧ s.phase = .drain
  · obtain ⟨rfl, hp⟩ := hheld
    exact .inl (step_of_held hf hs hp ▸ dstep_of_inv h hp)
  · cases hd : decode a w with
    | error reason => exact .inl ⟨_, step_of_decode_error hf hs hheld hd⟩
    | ok i =>
      rw [step_of_decode_ok hf hs hd]
      rcases exec_progress h i with hnext | ⟨rfl, hp, hc, hfault⟩
      · exact .inl hnext
      · obtain ⟨ha, hw⟩ := (decode_ok_iff a w .remove).mp hd
        exact .inr ⟨hp, hc, ⟨ha, hw.trans encode_remove⟩, hfault⟩

end

/-! ## The statements -/

/-- Settles O36: at power-on the ring is empty, nothing drains and nothing is marked. -/
theorem invariantHoldsAtPowerOn : Obligations.InvariantHoldsAtPowerOn :=
  ⟨inv_startWith [], inv_startWith⟩

/-- Settles O37: a waiting turn writes no field the invariant reads, and a DSTEP, a refused word and an effect
each keep it. -/
theorem everyStepKeepsTheInvariant : Obligations.EveryStepKeepsTheInvariant :=
  fun _ _ => step_inv

/-- Every reachable state has the invariant: it holds at power-on and every step keeps it. -/
theorem inv_of_reachable {s : State} (h : Reachable s) : Inv s := by
  obtain ⟨n, turns, hrun⟩ := h
  exact run_invariant (fun _ _ => step_inv) (inv_startWith turns) hrun

/-- Settles O19: the ring is part of the invariant of every reachable state, and by itself it passes through
every operation. -/
theorem ringInvariantHoldsInEveryReachableState : Obligations.RingInvariantHoldsInEveryReachableState := by
  refine ⟨fun s h => ?reachable, ringInv_reset, fun s t d h he => ?kept⟩
  case reachable =>
    have hring := (inv_of_reachable h).ring
    exact ⟨hring, ringInv_head_eq_tail_iff hring⟩
  case kept =>
    rcases he with he | he | he <;> exact exec_ringInv he h

/-- Settles O38: the kinds of turn one by one; each has a next state but for the two stops. -/
theorem onlyEmptyRemoveOrAnInvalidListingStops : Obligations.OnlyEmptyRemoveOrAnInvalidListingStops := by
  intro s h hf
  by_cases hcommand : ∃ a w rest, s.schedule = .command a w :: rest
  · obtain ⟨a, w, rest, hs⟩ := hcommand
    rcases step_progress_of_command h hf hs with hnext | ⟨hp, hc, ⟨rfl, rfl⟩, hfault⟩
    · exact .inl hnext
    · exact .inr (.inl ⟨hp, hc, ⟨rest, hs⟩, hfault⟩)
  · have hn : ∀ a w rest, s.schedule ≠ .command a w :: rest := fun a w rest hs =>
      hcommand ⟨a, w, rest, hs⟩
    exact (step_progress_of_no_command h hf hn).imp_right .inr

end Sys2Proof.Machine
end

section
/-! PROOF. A drain from its CYCLE to its last DSTEP (41_frame_extractor.md R131 to R135): with the start content
WIN_INIT no DSTEP before the tenth can match, so a drain in progress goes on until k = 9 and ends there. -/

namespace Sys2Proof.Machine

open Sys2Proof.Safety

/-! ## The window -/

theorem shiftWindow_getElem? (w : Window) (b : Byte) {i : Nat} (hi : i < 10) :
    (shiftWindow w b)[i]? = if i = 9 then some b else w[i + 1]? := by
  rw [Vector.getElem?_eq_getElem hi]
  split
  · next h =>
    subst h
    exact congrArg some (shiftWindow_get_last w b)
  · next h =>
    have hlt : i + 1 < 10 := by omega
    rw [Vector.getElem?_eq_getElem hlt, shiftWindow_get_lt w b hlt]

/-- The general formula of R135, for byte lists of any length. -/
theorem windowAfter_getElem? (init : Window) (xs : List Byte) {i : Nat} (hi : i < 10) :
    (windowAfter init xs)[i]? =
      if i + xs.length ≤ 9 then init[i + xs.length]? else xs[i + xs.length - 10]? := by
  induction xs generalizing init with
  | nil => simp [windowAfter, Nat.le_of_lt_succ hi]
  | cons x xs ih =>
    have hstep : windowAfter init (x :: xs) = windowAfter (shiftWindow init x) xs := rfl
    rw [hstep, ih, List.length_cons, ← Nat.add_assoc]
    rcases Nat.lt_trichotomy (i + xs.length) 9 with hlt | heq | hgt
    · rw [if_pos hlt.le, if_pos (Nat.succ_le_of_lt hlt), shiftWindow_getElem? init x (by omega),
        if_neg (by omega)]
    · rw [heq, shiftWindow_getElem? init x (by decide)]
      rfl
    · have hsucc : i + xs.length + 1 - 10 = i + xs.length - 10 + 1 := by omega
      rw [if_neg (by omega), if_neg (by omega), hsucc, List.getElem?_cons_succ]

/-- Settles O24: the two clauses are the branches of `windowAfter_getElem?`. -/
theorem windowHoldsItsStartContentThenTheBytes : Obligations.WindowHoldsItsStartContentThenTheBytes := by
  intro init xs i _ hi
  exact ⟨fun hle => (windowAfter_getElem? init xs hi).trans (if_pos hle),
    fun hlt => (windowAfter_getElem? init xs hi).trans (if_neg (Nat.not_le.mpr hlt))⟩

/-- Ten bytes fill the window: nothing of its start content is left. -/
theorem windowAfter_ten (init : Window) (x : Vector Byte 10) : windowAfter init x.toList = x := by
  refine Vector.ext fun i hi => Option.some.inj ?_
  have hi' : i < 10 := hi
  rw [← Vector.getElem?_eq_getElem hi, windowAfter_getElem? init x.toList hi', Vector.length_toList,
    if_neg (by omega), Nat.add_sub_cancel, Vector.getElem?_toList, Vector.getElem?_eq_getElem hi']

theorem windowAfter_concat (init : Window) (xs : List Byte) (b : Byte) :
    windowAfter init (xs ++ [b]) = shiftWindow (windowAfter init xs) b := by
  simp [windowAfter]

section

variable {s t u : State} {w : Window} {n : Nat}

/-! ## One DSTEP of a drain -/

theorem winInit_getD (j : Nat) : Config.WIN_INIT.toList.getD j 0 = 0 := by
  simp [List.getD_eq_getElem?_getD, List.getElem?_replicate]
  split <;> rfl

/-- Before the tenth byte slot 0 holds start content, which is no marker. -/
theorem not_marker_before_tenth (h : Inv s) (hp : s.phase = .drain) (hw : s.win = some w) (b : Byte)
    (hk : s.k.toNat < 9) : ¬isMarker (shiftWindow w b) = true := by
  obtain ⟨-, -, -, hslots⟩ := h.drain hp
  have hslot : w[1]? = some 0 := by
    have hone := hslots 1 (show 1 + s.k.toNat < 10 by omega)
    rwa [windowSlot_of_win hw, winInit_getD] at hone
  have hshift : (shiftWindow w b)[0]? = some 0 := (shiftWindow_getElem? w b (by decide)).trans hslot
  rw [isMarker_iff]
  rintro ⟨hff, -⟩
  rw [Vector.getElem?_eq_getElem (by decide), hff] at hshift
  exact absurd hshift (by decide)

theorem dstep_goesOn (h : Inv s) (hp : s.phase = .drain) (hw : s.win = some w) (hk : s.k.toNat < 9) :
    dstep s = .next (s.advanceHead.shiftIn (shiftWindow w (s.storage.read s.head.toNat))) := by
  obtain ⟨hk10, -, hc, hh, -⟩ := drain_ready_of_inv h hp
  have hnot : (s.k + 1).toNat ≠ Config.B := by
    rw [drainCount_succ hk10]
    simp only [Config.B]
    omega
  rw [dstep_of s hc hh hw]
  exact congrArg _ (testWindow_of_more (not_marker_before_tenth h hp hw _ hk) hnot)

/-- The tenth DSTEP ends the cycle, whatever the window holds. -/
theorem phase_testWindow_of_tenth (hk : s.k.toNat = 10) (w : Window) :
    (testWindow s w).phase = .ready := by
  rcases testWindow_cases s w with ⟨-, ht⟩ | ⟨-, -, ht⟩ | ⟨-, hnot, -⟩
  · exact ht ▸ rfl
  · exact ht ▸ rfl
  · exact absurd hk hnot

/-! ## The steps that take a DSTEP and keep their turn -/

/-- The turn at hand stays at hand while a drain goes on: a held word of the consumer, or the second half of
`C: DRAIN` (log entries 3 and 16). -/
def WaitsInDrain (s : State) : Prop :=
  (∃ w rest, s.schedule = .command .consumer w :: rest) ∨ ∃ rest, s.schedule = .drain :: rest

theorem step_goesOn (hf : s.faultMark = none) (hs : WaitsInDrain s) (hp : s.phase = .drain)
    (hd : dstep s = .next t) (ht : t.phase = .drain) : step s = .next t := by
  rcases hs with ⟨w, rest, hs⟩ | ⟨rest, hs⟩
  · exact (step_of_held hf hs hp).trans hd
  · have hstays : ¬t.phase = .ready := by simp [ht]
    rw [step_of_drain hf hs, drainTurn_drain hp hd, if_neg hstays]

theorem step_drain_ends {rest : List Turn} (hf : s.faultMark = none) (hs : s.schedule = .drain :: rest)
    (hp : s.phase = .drain) (hd : dstep s = .next t) (ht : t.phase = .ready) :
    step s = .next t.spendTurn := by
  rw [step_of_drain hf hs, drainTurn_drain hp hd, if_pos ht]

/-! ## `n` DSTEPs of a drain that goes on -/

/-- What no part of a drain writes, and no CYCLE that starts one. -/
structure KeptInDrain (s t : State) : Prop where
  storage : t.storage = s.storage
  tail : t.tail = s.tail
  ledBits : t.ledBits = s.ledBits
  indOut : t.indOut = s.indOut
  faultMark : t.faultMark = s.faultMark
  refusalMark : t.refusalMark = s.refusalMark

theorem KeptInDrain.trans (h₁ : KeptInDrain s t) (h₂ : KeptInDrain t u) : KeptInDrain s u :=
  ⟨h₂.storage.trans h₁.storage, h₂.tail.trans h₁.tail, h₂.ledBits.trans h₁.ledBits,
    h₂.indOut.trans h₁.indOut, h₂.faultMark.trans h₁.faultMark, h₂.refusalMark.trans h₁.refusalMark⟩

theorem keptInDrain_of_dstep (hd : dstep s = .next t) : KeptInDrain s t := by
  obtain ⟨hstorage, htail, hled, hind, hfault, hrefusal, -⟩ := dstep_frame hd
  exact ⟨hstorage, htail, hled, hind, hfault, hrefusal⟩

/-- The same as one equation, between two states of one phase. -/
theorem KeptInDrain.eq_with (h : KeptInDrain s t) (hp : t.phase = s.phase) :
    t = { s with
      head := t.head, count := t.count, k := t.k, win := t.win, report := t.report,
      trace := t.trace, schedule := t.schedule } := by
  rw [← h.storage, ← h.tail, ← h.ledBits, ← h.indOut, ← h.faultMark, ← h.refusalMark, ← hp]

/-- `n` DSTEPs lead from `s` to `t`, the drain still in progress: the first `n` bytes of the queue have gone into
the window. -/
structure Drained (n : Nat) (s t : State) : Prop where
  dsteps : Safety.dsteps n s = .next t
  inv : Inv t
  phase : t.phase = .drain
  k : t.k.toNat = s.k.toNat + n
  queue : t.queue = s.queue.drop n
  head : t.head.toNat = (s.head.toNat + n) % 255
  win : t.win = s.win.map fun w => windowAfter w (s.queue.take n)
  kept : KeptInDrain s t
  report : t.report = s.report
  trace : t.trace = s.trace
  schedule : t.schedule = s.schedule
  run : s.faultMark = none → WaitsInDrain s → core.run n s = .next t

theorem Drained.refl (h : Inv s) (hp : s.phase = .drain) : Drained 0 s s where
  dsteps := rfl
  inv := h
  phase := hp
  k := rfl
  queue := rfl
  head := (Nat.mod_eq_of_lt (head_lt_of_inv h)).symm
  win := by cases s.win <;> rfl
  kept := ⟨rfl, rfl, rfl, rfl, rfl, rfl⟩
  report := rfl
  trace := rfl
  schedule := rfl
  run := fun _ _ => rfl

/-- One DSTEP that goes on, then `n` more. -/
theorem Drained.cons (h : Inv s) (hp : s.phase = .drain) (hw : s.win = some w) (hk : s.k.toNat < 9)
    (hu : u = s.advanceHead.shiftIn (shiftWindow w (s.storage.read s.head.toNat)))
    (hd : Drained n u t) : Drained (n + 1) s t := by
  obtain ⟨hk10, -, hc, hh, -⟩ := drain_ready_of_inv h hp
  have hstep : dstep s = .next u := hu ▸ dstep_goesOn h hp hw hk
  have hqueue : s.queue = s.storage.read s.head.toNat :: u.queue :=
    hu ▸ s.queue_advanceHead hc hh
  refine ⟨?dsteps, hd.inv, hd.phase, ?k, ?queue, ?head, ?win, (keptInDrain_of_dstep hstep).trans hd.kept,
    hd.report.trans (hu ▸ rfl), hd.trace.trans (hu ▸ rfl), hd.schedule.trans (hu ▸ rfl), fun hf hs => ?run⟩
  case dsteps => rw [dsteps_succ_next hstep, hd.dsteps]
  case k =>
    have huk : u.k.toNat = s.k.toNat + 1 := hu ▸ drainCount_succ hk10
    rw [hd.k, huk, Nat.add_right_comm, Nat.add_assoc]
  case queue => rw [hd.queue, hqueue, List.drop_succ_cons]
  case head =>
    have huh : u.head.toNat = (s.head.toNat + 1) % 255 := hu ▸ nextIndex_toNat s.head
    rw [hd.head, huh]
    omega
  case win =>
    have huw : u.win = some (shiftWindow w (s.storage.read s.head.toNat)) := hu ▸ rfl
    rw [hd.win, huw, hw, hqueue, List.take_succ_cons]
    rfl
  case run =>
    have hup : u.phase = .drain := hu ▸ hp
    rw [run_of_step (step_goesOn hf hs hp hstep hup)]
    exact hd.run (hu ▸ hf) (hu ▸ hs)

theorem exists_drained (h : Inv s) (hp : s.phase = .drain) (hn : s.k.toNat + n ≤ 9) :
    ∃ t, Drained n s t := by
  induction n generalizing s with
  | zero => exact ⟨s, .refl h hp⟩
  | succ n ih =>
    obtain ⟨hk10, -, -, -, w, hw⟩ := drain_ready_of_inv h hp
    have hk : s.k.toNat < 9 := by omega
    have hstep := dstep_goesOn h hp hw hk
    obtain ⟨t, ht⟩ := ih (dstep_inv h hp hstep) hp (by
      rw [State.shiftIn_k, State.advanceHead_k, drainCount_succ hk10]
      omega)
    exact ⟨t, .cons h hp hw hk rfl ht⟩

/-- A drain goes on to k = 9 and ends with the DSTEP after that. -/
theorem drain_completes (h : Inv s) (hp : s.phase = .drain) :
    ∃ u t, Drained (9 - s.k.toNat) s u ∧ dstep u = .next t ∧ t.phase = .ready := by
  obtain ⟨hk, -⟩ := drain_ready_of_inv h hp
  obtain ⟨u, hu⟩ := exists_drained (n := 9 - s.k.toNat) h hp (by omega)
  obtain ⟨t, hd⟩ := dstep_of_inv hu.inv hu.phase
  refine ⟨u, t, hu, hd, ?_⟩
  rcases dstep_ends_or_goesOn hd with ⟨hready, -⟩ | ⟨w, -, hnot, -⟩
  · exact hready
  · obtain ⟨hk10, -⟩ := drain_ready_of_inv hu.inv hu.phase
    rw [drainCount_succ hk10, hu.k] at hnot
    simp only [Config.B] at hnot
    omega

theorem dsteps_concat (hu : Safety.dsteps n s = .next u) (hd : dstep u = .next t) :
    Safety.dsteps (n + 1) s = .next t := by
  induction n generalizing s with
  | zero => cases hu; exact dsteps_succ_next hd
  | succ n ih =>
    cases hs : dstep s with
    | next v =>
      rw [dsteps_succ_next hs] at hu ⊢
      exact ih hu
    | fault f => simp only [Safety.dsteps, hs, reduceCtorEq] at hu
    | refused r => simp only [Safety.dsteps, hs, reduceCtorEq] at hu

end

/-- Settles O25: the bounds are the invariant's, and the drain ends at its (10 - k)-th DSTEP. -/
theorem drainNeverFaultsAndEndsInTime : Obligations.DrainNeverFaultsAndEndsInTime := by
  intro s h hp
  obtain ⟨hk, hcount, -⟩ := drain_ready_of_inv h hp
  obtain ⟨u, t, hu, hd, ht⟩ := drain_completes h hp
  refine ⟨by omega, by omega, by omega, 9 - s.k.toNat + 1, t, by omega, by omega,
    dsteps_concat hu.dsteps hd, ht, dstep_inv hu.inv hu.phase hd, fun m hm => ?before⟩
  obtain ⟨v, hv⟩ := exists_drained (n := m) h hp (by omega)
  exact ⟨v, hv.dsteps, hv.phase⟩

/-- Settles O32: a held word is a waiting turn, and no DSTEP of the drain takes it off the schedule. -/
theorem heldCommandWaitsAtMostTenSteps : Obligations.HeldCommandWaitsAtMostTenSteps := by
  intro s w rest h hf hp hs
  obtain ⟨u, t, hu, hd, ht⟩ := drain_completes h hp
  have hus : u.schedule = .command .consumer w :: rest := hu.schedule.trans hs
  have huf : u.faultMark = none := hu.kept.faultMark.trans hf
  have hlast : core.run 1 u = .next t := run_of_step ((step_of_held huf hus hu.phase).trans hd) 0
  obtain ⟨-, -, -, -, -, -, hschedule, -⟩ := dstep_frame hd
  exact ⟨9 - s.k.toNat + 1, t, by omega, by omega,
    (run_add (hu.run hf (.inl ⟨w, rest, hs⟩)) 1).trans hlast, ht, hschedule.trans hus⟩

/-! ## The whole of `C: DRAIN` -/

/-- The tenth DSTEP tests the ten bytes themselves: nothing of the window's start content is left. -/
theorem tenth_dstep {s : State} {x : Vector Byte 10} {q : List Byte} (h : Inv s) (hp : s.phase = .drain)
    (hk : s.k = 0) (hw : s.win = some Config.WIN_INIT) (hq : s.queue = x.toList ++ q) :
    ∃ u, Drained 9 s u ∧ u.advanceHead.queue = q ∧
      dstep u = .next (testWindow (u.advanceHead.shiftIn x) x) := by
  obtain ⟨u, hu⟩ := exists_drained (n := 9) h hp (by simp [hk])
  obtain ⟨-, -, hc, hh, -⟩ := drain_ready_of_inv hu.inv hu.phase
  have hten : x.toList = x.toList.take 9 ++ [x[9]] := by
    rw [← Vector.getElem_toList (by simp), List.take_concat_get' x.toList 9 (by simp)]
    exact (List.take_of_length_le (by simp)).symm
  have htake : s.queue.take 9 = x.toList.take 9 := by
    rw [hq, List.take_append_of_le_length (by simp)]
  have hrest : u.storage.read u.head.toNat :: u.advanceHead.queue = x[9] :: q := by
    rw [← u.queue_advanceHead hc hh, hu.queue, hq, hten, List.append_assoc,
      List.drop_left' (by simp)]
    rfl
  obtain ⟨hbyte, hqueue⟩ := List.cons.inj hrest
  have hwin : u.win = some (windowAfter Config.WIN_INIT (x.toList.take 9)) := by
    rw [hu.win, hw, htake]
    rfl
  refine ⟨u, hu, hqueue, (dstep_of u hc hh hwin).trans ?_⟩
  rw [hbyte, ← windowAfter_concat, ← hten, windowAfter_ten]

/-- A drain of the ten bytes `x` from its start: what its ten DSTEPs leave. -/
theorem drain_of_ten_bytes {s : State} {x : Vector Byte 10} {q : List Byte} (h : Inv s)
    (hp : s.phase = .drain) (hk : s.k = 0) (hw : s.win = some Config.WIN_INIT)
    (hq : s.queue = x.toList ++ q) :
    ∃ u t, Drained 9 s u ∧ dstep u = .next t ∧ t.phase = .ready ∧ t.queue = q ∧
      t.head.toNat = (s.head.toNat + 10) % 255 ∧
      (isMarker x = true → t.report = payloadOf x ∧ t.trace = s.trace ++ [.cycle (.matched 10)]) ∧
      (¬isMarker x = true → t.report = s.report ∧ t.trace = s.trace ++ [.cycle .noMatch]) := by
  obtain ⟨u, hu, huq, hd⟩ := tenth_dstep h hp hk hw hq
  obtain ⟨hstorage, -⟩ := dstep_frame hd
  obtain ⟨hhead, hcount, -⟩ := dstep_counters hd
  have hten : u.k + 1 = 10 := BitVec.eq_of_toNat_eq <| by
    rw [drainCount_succ (hu.inv.drain hu.phase).1, hu.k, hk]
    rfl
  have hlast : (u.advanceHead.shiftIn x).k.toNat = 10 := congrArg BitVec.toNat hten
  refine ⟨u, _, hu, hd, phase_testWindow_of_tenth hlast x, ?queue, ?head, fun hm => ?matched,
    fun hm => ?noMatch⟩
  case queue => exact (State.queue_congr (t := u.advanceHead) hstorage hhead hcount).trans huq
  case head =>
    rw [hhead, nextIndex_toNat, hu.head]
    simp only [Config.C]
    omega
  case matched =>
    rw [testWindow_of_marker hm, ← hu.trace, ← hten]
    exact ⟨rfl, rfl⟩
  case noMatch =>
    rw [testWindow_of_last hm hlast, ← hu.report, ← hu.trace]
    exact ⟨rfl, rfl⟩

/-- Settles O26: CYCLE starts the drain, nine DSTEPs go on, and the tenth tests the ten bytes and ends it. -/
theorem drainRemovesTenBytesAndMatchesAtTheirFront :
    Obligations.DrainRemovesTenBytesAndMatchesAtTheirFront := by
  intro s rest x q h hf hp hq hs
  have hcount : s.count.toNat = 10 + q.length := by
    rw [← s.queue_length, hq, List.length_append, Vector.length_toList]
  have hcycle : step s = .next (s.startDrain Config.WIN_INIT).spendTurn := by
    rw [step_of_decode_ok hf hs ((decode_ok_iff _ _ .cycle).mpr ⟨rfl, encode_cycle.symm⟩),
      exec_cycle_ready hp, cycleBody_of_avail (hcount ▸ Nat.le_add_right 10 _)]
  have hstart : (s.startDrain Config.WIN_INIT).spendTurn.schedule = .drain :: rest := by
    rw [State.spendTurn_schedule, State.startDrain_schedule, hs, List.tail_cons]
  obtain ⟨u, t, hu, hd, hready, hqueue, hhead, hmatched, hnoMatch⟩ :=
    drain_of_ten_bytes (x := x) (q := q) (step_inv h hcycle) rfl rfl rfl hq
  have hus : u.schedule = .drain :: rest := hu.schedule.trans hstart
  have hlast : step u = .next t.spendTurn :=
    step_drain_ends (hu.kept.faultMark.trans hf) hus hu.phase hd hready
  have hrun : core.run 11 s = .next t.spendTurn := by
    rw [run_of_step hcycle, run_add (m := 9) (hu.run hf (.inr ⟨rest, hstart⟩)) 1]
    exact run_of_step hlast 0
  obtain ⟨-, -, -, -, -, -, hschedule, -⟩ := dstep_frame hd
  have hkept : KeptInDrain s t.spendTurn :=
    have hcycleKept : KeptInDrain s (s.startDrain Config.WIN_INIT).spendTurn :=
      ⟨rfl, rfl, rfl, rfl, rfl, rfl⟩
    have hspent : KeptInDrain t t.spendTurn := ⟨rfl, rfl, rfl, rfl, rfl, rfl⟩
    ((hcycleKept.trans hu.kept).trans (keptInDrain_of_dstep hd)).trans hspent
  refine ⟨t.spendTurn, hrun, hqueue, hhead, ?count, hready,
    (dstep_inv hu.inv hu.phase hd).window hready, ?schedule, hkept.eq_with (hready.trans hp.symm),
    fun hm => ?matched, fun hm => hnoMatch (mt (isMarker_iff x).mp hm)⟩
  case count =>
    rw [hcount, State.spendTurn_count, ← State.queue_length, hqueue, Nat.add_sub_cancel_left]
  case schedule => rw [State.spendTurn_schedule, hschedule, hus, List.tail_cons]
  case matched =>
    obtain ⟨hreport, htrace⟩ := hmatched ((isMarker_iff x).mpr hm)
    exact ⟨hreport.trans (payloadOf_eq x), htrace⟩

end Sys2Proof.Machine
end

section
/-! PROOF. Bytes in, bytes out: lists of INSERTs and of REMOVEs (40_ringbuffer.md R104, R105) and the FIFO order
over every step (20_memory.md R59). -/

namespace Sys2Proof.Machine

open Sys2Proof.Safety

theorem execAll_append {is js : List Instr} {s t : State} (h : execAll is s = .next t) :
    execAll (is ++ js) s = execAll js t := by
  induction is generalizing s with
  | nil => cases h; rfl
  | cons i is ih =>
    cases hi : exec i s with
    | next u =>
      rw [List.cons_append, execAll_cons_next hi]
      exact ih ((execAll_cons_next hi).symm.trans h)
    | fault f => simp only [execAll, hi, reduceCtorEq] at h
    | refused r => simp only [execAll, hi, reduceCtorEq] at h

/-! ## INSERTs -/

/-- The turn in which the producer presents an INSERT. -/
def insertTurn (d : Byte) : Turn := .command .producer (encode (.insert d))

/-- INSERTs of the bytes `ds`, each stored, lead from `s` to `t`, as operations and as steps. -/
structure StoredAll (ds : List Byte) (s t : State) : Prop where
  inv : Inv t
  queue : t.queue = s.queue ++ ds
  frame : t = { s with
    storage := t.storage, tail := t.tail, count := t.count,
    trace := s.trace ++ List.replicate ds.length (.resp .producer .insert (.bit 1#1)),
    schedule := s.schedule.drop ds.length }
  execAll : Safety.execAll (ds.map .insert) s = .next t
  run : ∀ rest, s.faultMark = none → s.schedule = ds.map insertTurn ++ rest →
    core.run ds.length s = .next t

section

variable {s t u : State} {d : Byte} {ds : List Byte}

theorem full_false_of_room (h : s.count.toNat ≠ 255) : s.full = false :=
  Bool.eq_false_iff.mpr (mt (State.full_iff s).mp h)

theorem StoredAll.nil (h : Inv s) : StoredAll [] s s where
  inv := h
  queue := (List.append_nil _).symm
  frame := by simp
  execAll := rfl
  run := fun _ _ _ => rfl

theorem StoredAll.cons (h : Inv s) (hroom : s.count.toNat ≠ 255)
    (hu : u = ((s.setStorage (s.storage.write s.tail.toNat d)).advanceTail.respond .insert
      (.bit 1#1)).spendTurn) (hds : StoredAll ds u t) : StoredAll (d :: ds) s t := by
  have hexec : exec (.insert d) s = .next u :=
    hu ▸ exec_insert_of_room (full_false_of_room hroom) (tail_lt_of_inv h)
  have hqueue : u.queue = s.queue ++ [d] := by
    rw [hu, State.queue_respond_spendTurn]
    exact s.queue_store d h.storage hroom (tail_eq_of_inv h)
  refine ⟨hds.inv, ?queue, ?frame, (execAll_cons_next hexec).trans hds.execAll, fun rest hf hs => ?run⟩
  case queue => rw [hds.queue, hqueue, List.append_assoc, List.singleton_append]
  case frame =>
    rw [hds.frame, hu]
    simp [State.spendTurn, State.respond, State.emit, State.advanceTail, State.setStorage,
      OpName.owner, List.replicate_succ]
  case run =>
    have hstep : step s = .next u :=
      (step_of_decode_ok hf hs ((decode_ok_iff _ _ (.insert d)).mpr ⟨rfl, rfl⟩)).trans hexec
    have hus : u.schedule = ds.map insertTurn ++ rest := by
      rw [hu, State.spendTurn_schedule]
      exact congrArg List.tail hs
    exact (run_of_step hstep _).trans (hds.run rest (hu ▸ hf) hus)

theorem exists_storedAll (h : Inv s) (hroom : s.count.toNat + ds.length ≤ 255) :
    ∃ t, StoredAll ds s t := by
  induction ds generalizing s with
  | nil => exact ⟨s, .nil h⟩
  | cons d ds ih =>
    rw [List.length_cons] at hroom
    have hne : s.count.toNat ≠ 255 := by omega
    have hexec := exec_insert_of_room (d := d) (full_false_of_room hne) (tail_lt_of_inv h)
    obtain ⟨t, ht⟩ := ih (exec_inv h hexec) (by
      rw [State.spendTurn_count, State.respond_count, State.advanceTail_count, State.setStorage_count,
        count_succ hne]
      omega)
    exact ⟨t, .cons h hne rfl ht⟩

/-- On a full buffer every INSERT is dropped. -/
theorem execAll_inserts_of_full (hfull : s.full = true) (ds : List Byte) :
    ∃ t, execAll (ds.map .insert) s = .next t ∧ t.queue = s.queue ∧ t.count = s.count ∧
      t.head = s.head := by
  induction ds generalizing s with
  | nil => exact ⟨s, rfl, rfl, rfl, rfl⟩
  | cons d ds ih =>
    obtain ⟨t, hrun, hqueue, hcount, hhead⟩ :=
      ih (s := ((s.respond .insert (.bit 0#1)).emit (.drop d)).spendTurn) hfull
    exact ⟨t, (execAll_cons_next (exec_insert_of_full hfull)).trans hrun, hqueue, hcount, hhead⟩

end

/-- Settles O17: the first 255 - n bytes are stored, and the others meet a full buffer. -/
theorem overflowKeepsTheFirstBytes : Obligations.OverflowKeepsTheFirstBytes := by
  intro s ds h
  have hn : s.count.toNat ≤ 255 := count_le_of_inv h
  obtain ⟨t, ht⟩ := exists_storedAll (ds := ds.take (255 - s.count.toNat)) h
    (by rw [List.length_take]; omega)
  have hcount : t.count.toNat = min (s.count.toNat + ds.length) 255 := by
    rw [← t.queue_length, ht.queue, List.length_append, s.queue_length, List.length_take]
    omega
  have hhead : t.head = s.head := by rw [ht.frame]
  by_cases hfits : ds.length ≤ 255 - s.count.toNat
  · have hall := ht.execAll
    rw [List.take_of_length_le hfits] at hall
    exact ⟨t, hall, ht.queue, hcount, hhead⟩
  · have hfull : t.full = true := (State.full_iff t).mpr (hcount.trans (Nat.min_eq_right (by omega)))
    obtain ⟨u, hu, huq, huc, huh⟩ := execAll_inserts_of_full hfull (ds.drop (255 - s.count.toNat))
    refine ⟨u, ?_, huq.trans ht.queue, huc ▸ hcount, huh.trans hhead⟩
    rw [← List.take_append_drop (255 - s.count.toNat) ds, List.map_append, execAll_append ht.execAll]
    simpa using hu

/-- REMOVEs of all that is in the queue answer its bytes in order. -/
theorem execAll_removes {s : State} {bs : List Byte} (h : Inv s) (hp : s.phase = .ready)
    (hq : s.queue = bs) :
    ∃ t, execAll (List.replicate bs.length .remove) s = .next t ∧ Inv t ∧ t.queue = [] ∧
      t.head.toNat = (s.head.toNat + bs.length) % 255 ∧
      t.trace = s.trace ++ bs.map fun b => .resp .consumer .remove (.byte b) := by
  induction bs generalizing s with
  | nil => exact ⟨s, rfl, h, hq, (Nat.mod_eq_of_lt (head_lt_of_inv h)).symm, (List.append_nil _).symm⟩
  | cons b bs ih =>
    have hh : s.head.toNat < Config.C := head_lt_of_inv h
    have hc : s.count ≠ 0 := fun hzero => by
      rw [State.queue_of_count_zero hzero] at hq
      cases hq
    rw [s.queue_advanceHead hc hh] at hq
    obtain ⟨hbyte, hrest⟩ := List.cons.inj hq
    have hexec := exec_remove_of_pos hp hc hh
    obtain ⟨t, hrun, hinv, hqueue, hhead, htrace⟩ := ih (exec_inv h hexec) hp hrest
    refine ⟨t, (execAll_cons_next hexec).trans hrun, hinv, hqueue, ?head, ?trace⟩
    case head =>
      rw [hhead, State.spendTurn_head, State.respond_head, State.advanceHead_head, nextIndex_toNat,
        List.length_cons]
      simp only [Config.C]
      omega
    case trace => simp [htrace, hbyte, OpName.owner]

/-- Settles O18: the INSERTs leave the queue `bs`, and as many REMOVEs take it out again; with count = 0 the ring's
invariant makes `tail` equal to `head`. -/
theorem removesReturnTheInsertsInOrder : Obligations.RemovesReturnTheInsertsInOrder := by
  intro bs turns hlen
  obtain ⟨t, ht⟩ := exists_storedAll (s := startWith turns) (ds := bs) (inv_startWith turns)
    ((Nat.zero_add _).trans_le hlen)
  obtain ⟨u, hrun, hinv, hqueue, hhead, htrace⟩ :=
    execAll_removes (bs := bs) ht.inv (congrArg State.phase ht.frame) ht.queue
  have hcount : u.count = 0 := BitVec.eq_of_toNat_eq (by rw [← u.queue_length, hqueue]; rfl)
  have hheadN : u.head.toNat = bs.length % 255 := by
    rw [hhead, show t.head = 0 from congrArg State.head ht.frame]
    simp
  obtain ⟨-, hlt, -, htail⟩ := hinv.ring
  refine ⟨u, (execAll_append ht.execAll).trans hrun, ?trace, hcount, hheadN, ?tail⟩
  case trace =>
    rw [htrace, show t.trace = _ from congrArg State.trace ht.frame, List.map_const']
    rfl
  case tail =>
    rw [htail, hcount, ← hheadN]
    exact Nat.mod_eq_of_lt hlt

/-! ## The flow of bytes -/

section

variable {s t : State}

theorem dstep_queue (hd : dstep s = .next t) :
    t.head ≠ s.head ∧ s.queue = s.storage.read s.head.toNat :: t.queue := by
  obtain ⟨w, hc, hh, -⟩ := dstep_next hd
  obtain ⟨hstorage, -⟩ := dstep_frame hd
  obtain ⟨hhead, hcount, -⟩ := dstep_counters hd
  refine ⟨hhead ▸ nextIndex_ne s.head, (s.queue_advanceHead hc hh).trans (congrArg _ ?_)⟩
  exact (State.queue_congr (t := s.advanceHead) hstorage hhead hcount).symm

/-- Every event of a DSTEP is the end of a cycle. -/
theorem dstep_events (hd : dstep s = .next t) :
    ∃ es, t.trace = s.trace ++ es ∧ ∀ e ∈ es, ∃ o, e = .cycle o := by
  obtain ⟨w, -, -, -, rfl⟩ := dstep_next hd
  rcases testWindow_cases (s.advanceHead.shiftIn (shiftWindow w (s.storage.read s.head.toNat)))
    (shiftWindow w (s.storage.read s.head.toNat)) with ⟨-, ht⟩ | ⟨-, -, ht⟩ | ⟨-, -, ht⟩
  · exact ⟨[.cycle (.matched (s.k + 1))], congrArg State.trace ht, by simp⟩
  · exact ⟨[.cycle .noMatch], congrArg State.trace ht, by simp⟩
  · exact ⟨[], (congrArg State.trace ht).trans (List.append_nil _).symm, nofun⟩

theorem newEvents_eq {es : List Event} (h : t.trace = s.trace ++ es) : newEvents s t = es := by
  rw [newEvents, h, List.drop_left]

end

section

variable {f : Flow} {t : State} {es : List Event}

/-- The events that start no byte sequence anew and store no byte. -/
def Quiet (es : List Event) : Prop :=
  .reset ∉ es ∧ .resp .producer .insert (.bit 1#1) ∉ es

theorem flowTo_of_quiet (htrace : t.trace = f.state.trace ++ es) (hes : Quiet es) :
    f.to t = { state := t, stored := f.stored, taken := f.taken ++ takenBy f.state t } := by
  obtain ⟨hreset, hstore⟩ := hes
  simp only [Flow.to, storedBy, newEvents_eq htrace, if_neg hreset, if_neg hstore, List.append_nil]

theorem flowTo_of_reset (htrace : t.trace = f.state.trace ++ [.reset]) :
    f.to t = { state := t, stored := [], taken := [] } := by
  simp [Flow.to, newEvents_eq htrace]

/-- A step that moves no byte. -/
theorem flow_of_stays (h : f.stored = f.taken ++ f.state.queue) (htrace : t.trace = f.state.trace ++ es)
    (hes : Quiet es) (hhead : t.head = f.state.head) (hqueue : t.queue = f.state.queue) :
    (f.to t).stored = (f.to t).taken ++ t.queue := by
  simp only [flowTo_of_quiet htrace hes, takenBy, if_pos hhead, List.append_nil, hqueue, h]

/-- A step that stores the data field of the presented word. -/
theorem flow_of_stores {a : Agent} {w : Word} {rest : List Turn} (h : f.stored = f.taken ++ f.state.queue)
    (htrace : t.trace = f.state.trace ++ [.resp .producer .insert (.bit 1#1)])
    (hs : f.state.schedule = .command a w :: rest) (hhead : t.head = f.state.head)
    (hqueue : t.queue = f.state.queue ++ [dataField w]) :
    (f.to t).stored = (f.to t).taken ++ t.queue := by
  simp [Flow.to, storedBy, takenBy, newEvents_eq htrace, hs, hhead, hqueue, h]

/-- A step that takes the oldest byte. -/
theorem flow_of_takes (h : f.stored = f.taken ++ f.state.queue) (htrace : t.trace = f.state.trace ++ es)
    (hes : Quiet es) (hhead : t.head ≠ f.state.head)
    (hqueue : f.state.queue = f.state.storage.read f.state.head.toNat :: t.queue) :
    (f.to t).stored = (f.to t).taken ++ t.queue := by
  simp only [flowTo_of_quiet htrace hes, takenBy, if_neg hhead, h, hqueue, List.append_assoc,
    List.singleton_append]

theorem flow_of_effect {a : Agent} {w : Word} {rest : List Turn} {i : Instr} (hinv : Inv f.state)
    (h : f.stored = f.taken ++ f.state.queue) (hs : f.state.schedule = .command a w :: rest)
    (hd : decode a w = .ok i) (he : Effect i f.state t) :
    (f.to t).stored = (f.to t).taken ++ t.queue := by
  cases he with
  | dropped d hfull =>
    exact flow_of_stays (es := [_, .drop d]) h (List.append_assoc _ _ _) (by simp [Quiet]) rfl rfl
  | stored d hroom ht =>
    obtain ⟨-, rfl⟩ := (decode_ok_iff a w _).mp hd
    have hne : f.state.count.toNat ≠ Config.C := mt (State.full_iff _).mpr (by simp [hroom])
    refine flow_of_stores h rfl hs rfl ?_
    rw [State.queue_respond_spendTurn, f.state.queue_store d hinv.storage hne (tail_eq_of_inv hinv), encode,
      dataField_packWord]
  | removed hc hh =>
    exact flow_of_takes h rfl (by simp [Quiet]) (nextIndex_ne _) (f.state.queue_advanceHead hc hh)
  | counted => exact flow_of_stays h rfl (by simp [Quiet]) rfl rfl
  | drainStarts => exact flow_of_stays h (List.append_nil _).symm (by simp [Quiet]) rfl rfl
  | idles => exact flow_of_stays h rfl (by simp [Quiet]) rfl rfl
  | sent => exact flow_of_stays (es := [_, .sent _]) h (List.append_assoc _ _ _) (by simp [Quiet]) rfl rfl
  | ledAccepted v => exact flow_of_stays h rfl (by simp [Quiet, OpName.owner]) rfl rfl
  | ledRejected len v hl =>
    exact flow_of_stays (es := [_, .ledReject len]) h (List.append_assoc _ _ _) (by simp [Quiet]) rfl rfl
  | cleared =>
    rw [flowTo_of_reset rfl]
    exact (State.queue_of_count_zero rfl).symm

/-- Every step from a state of the invariant keeps S = D followed by Q. -/
theorem flow_of_step (hinv : Inv f.state) (h : f.stored = f.taken ++ f.state.queue)
    (hstep : step f.state = .next t) : (f.to t).stored = (f.to t).taken ++ t.queue := by
  cases step_move hstep with
  | waits _ _ spent =>
    rcases spent with rfl | rfl <;>
      exact flow_of_stays h (List.append_nil _).symm (by simp [Quiet]) rfl rfl
  | drains _ _ hd spent =>
    obtain ⟨hhead, hqueue⟩ := dstep_queue hd
    obtain ⟨es, htrace, hcycle⟩ := dstep_events hd
    have hes : Quiet es := by
      constructor <;> intro hm <;> obtain ⟨o, ho⟩ := hcycle _ hm <;> cases ho
    rcases spent with rfl | rfl <;> exact flow_of_takes h htrace hes hhead hqueue
  | refuses => exact flow_of_stays h (List.append_nil _).symm (by simp [Quiet]) rfl rfl
  | executes hs hd _ he => exact flow_of_effect hinv h hs hd he

theorem flowTo_state (f : Flow) (t : State) : (f.to t).state = t := by
  unfold Flow.to
  split <;> rfl

theorem flow_of_run {n : Nat} {g : Flow} (hinv : Inv f.state) (h : f.stored = f.taken ++ f.state.queue)
    (hrun : Flow.run n f = some g) : g.stored = g.taken ++ g.state.queue := by
  induction n generalizing f with
  | zero => cases hrun; exact h
  | succ n ih =>
    simp only [Flow.run] at hrun
    split at hrun
    · next t hstep =>
      refine ih (f := f.to t) ?_ ?_ hrun
      · rw [flowTo_state]
        exact step_inv hinv hstep
      · rw [flowTo_state]
        exact flow_of_step hinv h hstep
    · cases hrun
    · cases hrun

end

/-- Settles O20: the step lemma, and its induction along a run with the invariant. -/
theorem storedBytesAreTakenBytesThenTheQueue : Obligations.StoredBytesAreTakenBytesThenTheQueue :=
  ⟨fun _ _ => flow_of_step, fun _ turns _ => flow_of_run (inv_startWith turns) rfl⟩

end Sys2Proof.Machine
end

section
/-! PROOF. The storage outside the queue is never observable (70_reset_and_hazards.md R201): two states that
differ there alone take the same step. The only read of the storage is at `head`, on a buffer that is not
empty, and the byte there is the queue's first. -/

namespace Sys2Proof.Machine

open Sys2Proof.Safety

section

variable {s t s' : State} {i : Instr}

/-! ## The updates of the state -/

theorem sameButStaleSlots_spendTurn (h : SameButStaleSlots s t) :
    SameButStaleSlots s.spendTurn t.spendTurn :=
  { h with schedule := congrArg List.tail h.schedule }

theorem sameButStaleSlots_emit (h : SameButStaleSlots s t) (e : Event) :
    SameButStaleSlots (s.emit e) (t.emit e) :=
  { h with trace := congrArg (· ++ [e]) h.trace }

theorem sameButStaleSlots_respond (h : SameButStaleSlots s t) (op : OpName) (v : Response) :
    SameButStaleSlots (s.respond op v) (t.respond op v) :=
  sameButStaleSlots_emit h _

theorem sameButStaleSlots_refuseWord (h : SameButStaleSlots s t) (reason : RefuseReason) (a : Agent)
    (w : Word) : SameButStaleSlots (refuseWord s reason a w) (refuseWord t reason a w) :=
  sameButStaleSlots_spendTurn
    { h with refusalMark := by simp only [State.markRefusal_refusalMark, h.refusalMark] }

theorem sameButStaleSlots_setReport (h : SameButStaleSlots s t) (r : Report) :
    SameButStaleSlots (s.setReport r) (t.setReport r) :=
  { h with report := rfl }

theorem sameButStaleSlots_startDrain (h : SameButStaleSlots s t) (w : Window) :
    SameButStaleSlots (s.startDrain w) (t.startDrain w) :=
  { h with win := rfl, k := rfl, phase := rfl }

theorem sameButStaleSlots_shiftIn (h : SameButStaleSlots s t) (w : Window) :
    SameButStaleSlots (s.shiftIn w) (t.shiftIn w) :=
  { h with win := rfl, k := congrArg (· + 1) h.k }

theorem sameButStaleSlots_endDrain (h : SameButStaleSlots s t) :
    SameButStaleSlots s.endDrain t.endDrain :=
  { h with win := rfl, phase := rfl }

theorem sameButStaleSlots_idleFallback (h : SameButStaleSlots s t) :
    SameButStaleSlots s.idleFallback t.idleFallback :=
  { h with report := rfl, indOut := rfl }

theorem sameButStaleSlots_setLed (h : SameButStaleSlots s t) (v : Byte) :
    SameButStaleSlots ((s.setLed v).setIndicator (indicatorOf v))
      ((t.setLed v).setIndicator (indicatorOf v)) :=
  { h with ledBits := rfl, indOut := rfl }

theorem sameButStaleSlots_clear (h : SameButStaleSlots s t) : SameButStaleSlots s.clear t.clear :=
  { h with
    queue := (State.queue_of_count_zero rfl).trans (State.queue_of_count_zero rfl).symm
    head := rfl, tail := rfl, count := rfl, phase := rfl, k := rfl, win := rfl, report := rfl
    ledBits := rfl, indOut := rfl }

/-- Both heads hold the first byte of the one queue. -/
theorem sameButStaleSlots_advanceHead (h : SameButStaleSlots s t) (hc : s.count ≠ 0)
    (hh : s.head.toNat < Config.C) :
    s.storage.read s.head.toNat = t.storage.read t.head.toNat ∧
      SameButStaleSlots s.advanceHead t.advanceHead := by
  have hqueue := h.queue
  rw [s.queue_advanceHead hc hh, t.queue_advanceHead (h.count ▸ hc) (h.head ▸ hh)] at hqueue
  obtain ⟨hbyte, hrest⟩ := List.cons.inj hqueue
  exact ⟨hbyte, { h with
    queue := hrest
    head := congrArg nextIndex h.head
    count := congrArg (· - 1) h.count }⟩

/-- The same byte is appended to the one queue. -/
theorem sameButStaleSlots_store (h : SameButStaleSlots s t) (hs : Inv s) (ht : Inv t) (d : Byte)
    (hroom : s.count.toNat ≠ Config.C) :
    SameButStaleSlots (s.setStorage (s.storage.write s.tail.toNat d)).advanceTail
      (t.setStorage (t.storage.write t.tail.toNat d)).advanceTail :=
  { h with
    queue := by
      rw [s.queue_store d hs.storage hroom (tail_eq_of_inv hs),
        t.queue_store d ht.storage (h.count ▸ hroom) (tail_eq_of_inv ht), h.queue]
    tail := congrArg nextIndex h.tail
    count := congrArg (· + 1) h.count }

theorem sameButStaleSlots_testWindow (h : SameButStaleSlots s t) (w : Window) :
    SameButStaleSlots (testWindow s w) (testWindow t w) := by
  by_cases hm : isMarker w = true
  · rw [testWindow_of_marker hm, testWindow_of_marker hm, ← h.k]
    exact sameButStaleSlots_emit (sameButStaleSlots_endDrain (sameButStaleSlots_setReport h _)) _
  · by_cases hk : s.k.toNat = Config.B
    · rw [testWindow_of_last hm hk, testWindow_of_last hm (h.k ▸ hk)]
      exact sameButStaleSlots_emit (sameButStaleSlots_endDrain h) _
    · rw [testWindow_of_more hm hk, testWindow_of_more hm (h.k ▸ hk)]
      exact h

/-! ## Results that agree -/

/-- Whenever the first result is a next state, so is the second, and the two differ in stale slots alone. -/
def SameResult (r r' : Result) : Prop :=
  ∀ s', r = .next s' → ∃ t', r' = .next t' ∧ SameButStaleSlots s' t'

theorem sameResult_next (h : SameButStaleSlots s t) : SameResult (.next s) (.next t) :=
  fun _ hs => ⟨t, rfl, Host.Outcome.next.inj hs ▸ h⟩

theorem sameResult_dstep (h : SameButStaleSlots s t) : SameResult (dstep s) (dstep t) := by
  intro s' hd
  obtain ⟨w, hc, hh, hw, rfl⟩ := dstep_next hd
  obtain ⟨hbyte, hadvance⟩ := sameButStaleSlots_advanceHead h hc hh
  refine ⟨_, dstep_of t (h.count ▸ hc) (h.head ▸ hh) (h.win ▸ hw), ?_⟩
  rw [← hbyte]
  exact sameButStaleSlots_testWindow (sameButStaleSlots_shiftIn hadvance _) _

theorem effect_of_sameButStaleSlots (h : SameButStaleSlots s t) (hs : Inv s) (ht : Inv t)
    (he : Effect i s s') : ∃ t', Effect i t t' ∧ SameButStaleSlots s' t' := by
  have hfull : t.full = s.full := by simp only [State.full, h.count]
  have havail : t.avail = s.avail := by simp only [State.avail, h.count]
  cases he with
  | dropped d hf =>
    exact ⟨_, .dropped d (hfull.trans hf),
      sameButStaleSlots_spendTurn (sameButStaleSlots_emit (sameButStaleSlots_respond h _ _) _)⟩
  | stored d hf htail =>
    exact ⟨_, .stored d (hfull.trans hf) (h.tail ▸ htail),
      sameButStaleSlots_spendTurn (sameButStaleSlots_respond
        (sameButStaleSlots_store h hs ht d (mt (State.full_iff s).mpr (by simp [hf]))) _ _)⟩
  | removed hc hh =>
    obtain ⟨hbyte, hadvance⟩ := sameButStaleSlots_advanceHead h hc hh
    refine ⟨_, .removed (h.count ▸ hc) (h.head ▸ hh), ?_⟩
    rw [← hbyte]
    exact sameButStaleSlots_spendTurn (sameButStaleSlots_respond hadvance _ _)
  | counted =>
    refine ⟨_, .counted, ?_⟩
    rw [← h.count]
    exact sameButStaleSlots_spendTurn (sameButStaleSlots_respond h _ _)
  | drainStarts ha =>
    exact ⟨_, .drainStarts (havail.trans ha),
      sameButStaleSlots_spendTurn (sameButStaleSlots_startDrain h _)⟩
  | idles ha =>
    exact ⟨_, .idles (havail.trans ha),
      sameButStaleSlots_spendTurn (sameButStaleSlots_emit (sameButStaleSlots_idleFallback h) _)⟩
  | sent =>
    refine ⟨_, .sent, ?_⟩
    rw [← h.report]
    exact sameButStaleSlots_spendTurn (sameButStaleSlots_emit (sameButStaleSlots_respond h _ _) _)
  | ledAccepted v =>
    exact ⟨_, .ledAccepted v,
      sameButStaleSlots_spendTurn (sameButStaleSlots_respond (sameButStaleSlots_setLed h v) _ _)⟩
  | ledRejected len v hl =>
    exact ⟨_, .ledRejected len v hl,
      sameButStaleSlots_spendTurn (sameButStaleSlots_emit (sameButStaleSlots_respond h _ _) _)⟩
  | cleared =>
    exact ⟨_, .cleared,
      sameButStaleSlots_spendTurn (sameButStaleSlots_emit (sameButStaleSlots_clear h) _)⟩

theorem sameResult_exec (h : SameButStaleSlots s t) (hs : Inv s) (ht : Inv t) (i : Instr) :
    SameResult (exec i s) (exec i t) := by
  intro s' hexec
  rcases exec_next hexec with ⟨ho, hp, hd⟩ | ⟨hready, he⟩
  · rw [exec_of_held ho (h.phase ▸ hp)]
    exact sameResult_dstep h s' hd
  · obtain ⟨t', he', hsame⟩ := effect_of_sameButStaleSlots h hs ht he
    exact ⟨t', exec_of_effect (fun ho => h.phase ▸ hready ho) he', hsame⟩

/-- A presented word is held, refused or executed in both states alike. -/
theorem sameResult_step_of_command {a : Agent} {w : Word} {rest : List Turn} (h : SameButStaleSlots s t)
    (hs : Inv s) (ht : Inv t) (hf : s.faultMark = none) (hsch : s.schedule = .command a w :: rest) :
    SameResult (step s) (step t) := by
  have hf' : t.faultMark = none := h.faultMark ▸ hf
  have hsch' : t.schedule = .command a w :: rest := h.schedule ▸ hsch
  by_cases hheld : a = .consumer ∧ s.phase = .drain
  · obtain ⟨rfl, hp⟩ := hheld
    rw [step_of_held hf hsch hp, step_of_held hf' hsch' (h.phase ▸ hp)]
    exact sameResult_dstep h
  · cases hd : decode a w with
    | error reason =>
      rw [step_of_decode_error hf hsch hheld hd, step_of_decode_error hf' hsch' (h.phase ▸ hheld) hd]
      exact sameResult_next (sameButStaleSlots_refuseWord h reason a w)
    | ok i =>
      rw [step_of_decode_ok hf hsch hd, step_of_decode_ok hf' hsch' hd]
      exact sameResult_exec h hs ht i

theorem sameResult_drainTurn (h : SameButStaleSlots s t) (hs : Inv s) :
    SameResult (drainTurn s) (drainTurn t) := by
  cases hp : s.phase with
  | ready =>
    rw [drainTurn_ready hp, drainTurn_ready (h.phase ▸ hp)]
    exact sameResult_next (sameButStaleSlots_spendTurn h)
  | drain =>
    obtain ⟨u, hd⟩ := dstep_of_inv hs hp
    obtain ⟨v, hd', hsame⟩ := sameResult_dstep h u hd
    rw [drainTurn_drain hp hd, drainTurn_drain (h.phase ▸ hp) hd', ← hsame.phase]
    refine sameResult_next ?_
    split
    · exact sameButStaleSlots_spendTurn hsame
    · exact hsame

theorem sameResult_step (h : SameButStaleSlots s t) (hs : Inv s) (ht : Inv t) :
    SameResult (step s) (step t) := by
  intro s' hstep
  obtain ⟨hf, -⟩ := step_next_cases hstep
  have hf' : t.faultMark = none := h.faultMark ▸ hf
  revert s'
  cases hsch : s.schedule with
  | nil =>
    rw [step_of_nil hf hsch, step_of_nil hf' (h.schedule ▸ hsch)]
    cases hp : s.phase with
    | drain =>
      rw [idleTurn_drain hp, idleTurn_drain (h.phase ▸ hp)]
      exact sameResult_dstep h
    | ready =>
      rw [idleTurn_ready hp, idleTurn_ready (h.phase ▸ hp)]
      exact sameResult_next h
  | cons turn rest =>
    cases turn with
    | command a w => exact sameResult_step_of_command h hs ht hf hsch
    | dstep =>
      rw [step_of_dstep hf hsch, step_of_dstep hf' (h.schedule ▸ hsch)]
      cases hp : s.phase with
      | drain =>
        rw [dstepTurn_drain hp, dstepTurn_drain (h.phase ▸ hp)]
        exact sameResult_dstep (sameButStaleSlots_spendTurn h)
      | ready =>
        rw [dstepTurn_ready hp]
        exact nofun
    | drain =>
      rw [step_of_drain hf hsch, step_of_drain hf' (h.schedule ▸ hsch)]
      exact sameResult_drainTurn h hs

end

/-- Settles O21: both states take the same kind of turn, and each kind of turn keeps the agreement. -/
theorem staleStorageIsNeverObserved : Obligations.StaleStorageIsNeverObserved :=
  fun _ _ s' hs ht h => sameResult_step h hs ht s'

end Sys2Proof.Machine
end

section
/-! PROOF. INSERT commutes with REMOVE and with DSTEP unless the buffer is full (20_memory.md R63): INSERT reads
and writes at `tail`, a removal at `head`, and these are different slots of a ring that is neither empty nor
full. -/

namespace Sys2Proof.Machine

open Sys2Proof.Safety

section

variable {s t : State} {d : Byte}

/-- The state after an INSERT that stores `d`, but for its turn. -/
def State.store (s : State) (d : Byte) : State :=
  (s.setStorage (s.storage.write s.tail.toNat d)).advanceTail

theorem exec_insert_store (h : Inv s) (hroom : s.count.toNat ≠ 255) (d : Byte) :
    exec (.insert d) s = .next ((s.store d).respond .insert (.bit 1#1)).spendTurn :=
  exec_insert_of_room (full_false_of_room hroom) (tail_lt_of_inv h)

theorem queue_store_of_inv (h : Inv s) (hroom : s.count.toNat ≠ 255) (d : Byte) :
    (s.store d).queue = s.queue ++ [d] :=
  s.queue_store d h.storage hroom (tail_eq_of_inv h)

theorem queue_advanceHead_eq_tail (h : Inv s) (hc : s.count ≠ 0) : s.advanceHead.queue = s.queue.tail := by
  rw [s.queue_advanceHead hc (head_lt_of_inv h), List.tail_cons]

/-- In a ring that is neither empty nor full, storing a byte leaves the one at `head`. -/
theorem read_head_store (h : Inv s) (hc : s.count ≠ 0) (hroom : s.count.toNat ≠ 255) (d : Byte) :
    (s.store d).storage.read s.head.toNat = s.storage.read s.head.toNat := by
  refine Memory.read_write_other h.storage (fun heq => ?_) d
  rcases (ringInv_head_eq_tail_iff h.ring).mp (BitVec.eq_of_toNat_eq heq) with hzero | hfull
  · exact hc (BitVec.eq_of_toNat_eq hzero)
  · exact hroom hfull

theorem store_count_ne_zero (hroom : s.count.toNat ≠ 255) : s.count + 1 ≠ 0 := fun hzero =>
  Nat.succ_ne_zero s.count.toNat ((count_succ hroom).symm.trans (congrArg BitVec.toNat hzero))

/-- A byte taken makes room for one. -/
theorem pred_count_of_inv (h : Inv s) (hc : s.count ≠ 0) :
    (s.count - 1).toNat ≠ 255 ∧ (s.count - 1 + 1).toNat = s.count.toNat := by
  have hle : s.count.toNat ≤ 255 := count_le_of_inv h
  obtain ⟨hpred, hpos⟩ := count_pred hc
  have hroom : (s.count - 1).toNat ≠ 255 := by omega
  exact ⟨hroom, by rw [count_succ hroom, hpred]; omega⟩

/-- Taking a byte and storing one meet in `count` alone, and there they commute. -/
theorem count_comm (c : BitVec 8) : c + 1 - 1 = c - 1 + 1 := by
  rw [BitVec.sub_add_cancel, BitVec.add_sub_cancel]

/-! ## INSERT and REMOVE -/

/-- REMOVE first, then an INSERT, which finds room. -/
theorem execAll_remove_insert (h : Inv s) (hp : s.phase = .ready) (hc : s.count ≠ 0) (d : Byte) :
    execAll [.remove, .insert d] s =
      .next (((s.advanceHead.respond .remove (.byte (s.storage.read s.head.toNat))).spendTurn.store
        d).respond .insert (.bit 1#1)).spendTurn := by
  have hremove := exec_remove_of_pos hp hc (head_lt_of_inv h)
  have hinsert := exec_insert_store (exec_inv h hremove) (pred_count_of_inv h hc).1 d
  exact (execAll_cons_next hremove).trans (execAll_cons_next hinsert)

theorem execAll_insert_remove_of_room (h : Inv s) (hp : s.phase = .ready) (hc : s.count ≠ 0)
    (hroom : s.count.toNat ≠ 255) (d : Byte) :
    execAll [.insert d, .remove] s =
      .next (((s.store d).respond .insert (.bit 1#1)).spendTurn.advanceHead.respond .remove
        (.byte (s.storage.read s.head.toNat))).spendTurn := by
  have hh : s.head.toNat < Config.C := head_lt_of_inv h
  have hremove := exec_remove_of_pos (s := ((s.store d).respond .insert (.bit 1#1)).spendTurn) hp
    (store_count_ne_zero hroom) hh
  rw [← read_head_store h hc hroom d]
  exact (execAll_cons_next (exec_insert_store h hroom d)).trans (execAll_cons_next hremove)

theorem execAll_insert_remove_of_full (h : Inv s) (hp : s.phase = .ready) (hc : s.count ≠ 0)
    (hfull : s.count.toNat = 255) (d : Byte) :
    execAll [.insert d, .remove] s =
      .next (((s.respond .insert (.bit 0#1)).emit (.drop d)).spendTurn.advanceHead.respond .remove
        (.byte (s.storage.read s.head.toNat))).spendTurn := by
  have hh : s.head.toNat < Config.C := head_lt_of_inv h
  have hremove := exec_remove_of_pos
    (s := ((s.respond .insert (.bit 0#1)).emit (.drop d)).spendTurn) hp hc hh
  exact (execAll_cons_next (exec_insert_of_full ((State.full_iff s).mpr hfull))).trans
    (execAll_cons_next hremove)

/-! ## INSERT and DSTEP -/

/-- What a DSTEP does comes of the byte at `head`, k, the window and the report: the same phase, window, report
and new events whatever the rest of the storage, `tail`, `count`, the trace so far and the schedule. -/
theorem dstep_uniform {w : Window} (hh : s.head.toNat < Config.C) (hw : s.win = some w) :
    ∃ (ph : Phase) (wn : Option Window) (rp : Report) (es : List Event),
      ∀ (m : Memory) (tl c : BitVec 8) (tr : List Event) (sc : List Turn),
        m.read s.head.toNat = s.storage.read s.head.toNat → c ≠ 0 →
        dstep { s with storage := m, tail := tl, count := c, trace := tr, schedule := sc } =
          .next { s with
            storage := m, head := nextIndex s.head, tail := tl, count := c - 1, phase := ph,
            k := s.k + 1, win := wn, report := rp, trace := tr ++ es, schedule := sc } := by
  obtain ⟨ph, wn, rp, es, htest⟩ := testWindow_congr
    (s.advanceHead.shiftIn (shiftWindow w (s.storage.read s.head.toNat)))
    (shiftWindow w (s.storage.read s.head.toNat))
  refine ⟨ph, wn, rp, es, fun m tl c tr sc hread hc => ?_⟩
  rw [dstep_of { s with storage := m, tail := tl, count := c, trace := tr, schedule := sc } hc hh hw, hread]
  exact congrArg _ (htest m tl (c - 1) tr sc)

end

/-- Settles O34: each order is two equations of `exec`; the two next states differ in how `count` was written, and
when full in whether the byte was stored. -/
theorem insertAndRemoveCommuteUnlessFull : Obligations.InsertAndRemoveCommuteUnlessFull := by
  intro s d h hp hc
  obtain ⟨hpredRoom, hpredSucc⟩ := pred_count_of_inv h hc
  have hremoved := exec_inv h (exec_remove_of_pos hp hc (head_lt_of_inv h))
  by_cases hfull : s.count.toNat = 255
  · refine ⟨_, _, execAll_insert_remove_of_full h hp hc hfull d, execAll_remove_insert h hp hc d,
      fun hne => absurd hfull hne, fun _ => ⟨?insertFirst, hpredSucc.trans hfull, ?queueInsertFirst,
      ?queueRemoveFirst, s.storage.read s.head.toNat, ?traces⟩⟩
    case insertFirst => exact (count_pred hc).1.trans (by rw [hfull])
    case queueInsertFirst => exact queue_advanceHead_eq_tail h hc
    case queueRemoveFirst =>
      rw [State.queue_respond_spendTurn, queue_store_of_inv hremoved hpredRoom,
        State.queue_respond_spendTurn, queue_advanceHead_eq_tail h hc]
    case traces => simp [State.store, OpName.owner]
  · refine ⟨_, _, execAll_insert_remove_of_room h hp hc hfull d, execAll_remove_insert h hp hc d,
      fun _ => ⟨?same, s.storage.read s.head.toNat, ?traces⟩, fun heq => absurd heq hfull⟩
    case same => exact ⟨rfl, rfl, rfl, count_comm s.count, rfl, rfl, rfl, rfl, rfl, rfl⟩
    case traces => simp [State.store, OpName.owner]

/-- Settles O41: the DSTEP does the same before and after the INSERT (`dstep_uniform`), since storing a byte leaves
the one at `head`; after a DSTEP there is always room. -/
theorem insertAndDstepCommuteUnlessFull : Obligations.InsertAndDstepCommuteUnlessFull := by
  intro s d h hp
  obtain ⟨-, -, hc, hh, w, hw⟩ := drain_ready_of_inv h hp
  obtain ⟨hpredRoom, hpredSucc⟩ := pred_count_of_inv h hc
  obtain ⟨ph, wn, rp, es, hdstep⟩ := dstep_uniform hh hw
  have hfirst := hdstep s.storage s.tail s.count s.trace s.schedule rfl hc
  have hstepped := dstep_inv h hp hfirst
  have hlast := exec_insert_store hstepped hpredRoom d
  by_cases hfull : s.count.toNat = 255
  · have hdrop := exec_insert_of_full (d := d) ((State.full_iff s).mpr hfull)
    have hafter := hdstep s.storage s.tail s.count
      (s.trace ++ [.resp .producer .insert (.bit 0#1)] ++ [.drop d]) s.schedule.tail rfl hc
    refine ⟨_, _, _, _, hdrop, hafter, hfirst, hlast, fun hne => absurd hfull hne, fun _ => ⟨?insertFirst,
      hpredSucc.trans hfull, ?queueInsertFirst, ?queueDstepFirst, ?same, es, ?traces⟩⟩
    case insertFirst => exact (count_pred hc).1.trans (by rw [hfull])
    case queueInsertFirst => exact queue_advanceHead_eq_tail h hc
    case queueDstepFirst =>
      rw [State.queue_respond_spendTurn, queue_store_of_inv hstepped hpredRoom]
      exact congrArg (· ++ [d]) (queue_advanceHead_eq_tail h hc)
    case same => exact ⟨rfl, rfl, rfl, rfl, rfl, rfl, rfl, rfl, rfl, rfl⟩
    case traces => simp [State.store, OpName.owner]
  · have hafter := hdstep (s.store d).storage (s.store d).tail (s.store d).count
      (s.trace ++ [.resp .producer .insert (.bit 1#1)]) s.schedule.tail
      (read_head_store h hc hfull d) (store_count_ne_zero hfull)
    refine ⟨_, _, _, _, exec_insert_store h hfull d, hafter, hfirst, hlast, fun _ => ⟨?same, es, rfl, rfl⟩,
      fun heq => absurd heq hfull⟩
    case same => exact ⟨rfl, rfl, rfl, count_comm s.count, rfl, rfl, rfl, rfl, rfl, rfl⟩

end Sys2Proof.Machine
end

section
/-! PROOF. The ports (30_encoding.md R79, 20_memory.md R63, 60_exceptions.md R177): the serial orders of one clock's
requests, the board after a clock, and the response signals it shows (log entry 15). -/

namespace Sys2Proof.Machine

open Sys2Proof.Safety

/-! ## One clock -/

/-- The board after a clock that left the block in state `t`. -/
def Board.after (b : Board) (t : State) : Board where
  block := t
  clocks := b.clocks + 1
  fresh := t.trace.drop b.block.trace.length

section

variable {b : Board} {p : PortInputs} {s t : State} {a : Agent} {turn turn' : Turn} {i : Instr}

theorem takeTurns_single (h : takeTurn (s.present turn) = .next t) : takeTurns [turn] s = .next t :=
  takeTurns_cons_next h

theorem takeTurns_pair {u : State} (h : takeTurn (s.present turn) = .next t)
    (h' : takeTurn (t.present turn') = .next u) : takeTurns [turn, turn'] s = .next u :=
  (takeTurns_cons_next h).trans (takeTurns_single h')

theorem clock_of_one_turn (ho : p.orders b.block = [[turn]])
    (h : takeTurn (b.block.present turn) = .next t) : b.clock p = [.next (b.after t)] := by
  rw [Board.clock, ho, List.map_singleton, Board.clockIn_of_next (takeTurns_single h)]
  rfl

theorem clock_of_two_orders {u : State} (ho : p.orders b.block = [[turn, turn'], [turn', turn]])
    (h : takeTurns [turn, turn'] b.block = .next t) (h' : takeTurns [turn', turn] b.block = .next u) :
    b.clock p = [.next (b.after t), .next (b.after u)] := by
  rw [Board.clock, ho, List.map_cons, List.map_singleton, Board.clockIn_of_next h, Board.clockIn_of_next h']
  rfl

theorem clock_of_fault {f : Fault} (ho : p.orders b.block = [[turn]])
    (h : takeTurn (b.block.present turn) = .fault f) : b.clock p = [.fault f] := by
  simp only [Board.clock, ho, List.map_singleton, Board.clockIn, takeTurns, h]

/-- An operation presented by its owner is run, unless it is held. -/
theorem takeTurn_present_of (hf : s.faultMark = none) (hn : i.owner = .consumer → s.phase = .ready) :
    takeTurn (s.present (.of i)) = exec i (s.present (.of i)) :=
  takeTurn_present_command hf (fun ⟨ho, hp⟩ => absurd ((hn ho).symm.trans hp) nofun) (decode_encode i)

theorem inv_present (h : Inv s) (turn : Turn) : Inv (s.present turn) :=
  ⟨h.ring, h.storage, h.drain, h.window, h.refusal⟩

/-! ## The orders of the requests -/

theorem producerTurns_of_req (hp : p.pReq = true) : p.producerTurns = [.of (.insert p.pData)] :=
  if_pos hp

theorem producerTurns_of_none (hp : p.pReq = false) : p.producerTurns = [] :=
  if_neg (Bool.eq_false_iff.mp hp)

theorem hostTurns_of_req (hh : p.hReq = true) : p.hostTurns = [.of (.ledwr p.hLen p.hData)] :=
  if_pos hh

theorem hostTurns_of_none (hh : p.hReq = false) : p.hostTurns = [] :=
  if_neg (Bool.eq_false_iff.mp hh)

/-- A consumer port that is not busy presents the word whose op is `c_op`. -/
theorem consumerTurns_of_req (hs : s.phase = .ready) (hc : p.cReq = true) :
    p.consumerTurns s = [.command .consumer (packWord p.cOp 0 0)] := by
  simp [PortInputs.consumerTurns, State.busy, hs, hc]

theorem consumerTurns_of_none (hs : s.phase = .ready) (hc : p.cReq = false) : p.consumerTurns s = [] := by
  simp [PortInputs.consumerTurns, State.busy, hs, hc]

/-- Without `rst` every order of the three ports' turns is possible (20_memory.md R63). -/
theorem orders_eq {turnsP turnsC turnsH : List Turn} (hr : p.rst = false) (hp : p.producerTurns = turnsP)
    (hc : p.consumerTurns s = turnsC) (hh : p.hostTurns = turnsH) :
    p.orders s = (turnsP ++ turnsC ++ turnsH).permutations' := by
  rw [PortInputs.orders, if_neg (Bool.eq_false_iff.mp hr), hp, hc, hh]

/-! ## The response signals -/

theorem response_after {es : List Event} {v : Response} (h : t.trace = b.block.trace ++ es)
    (hv : lastResponse a es = some v) : (b.after t).response a = rdataOf v := by
  simp only [Board.response, Board.after, h, List.drop_left, hv]

theorem pStored_after {es : List Event} {bit : BitVec 1} (h : t.trace = b.block.trace ++ es)
    (hv : lastResponse .producer es = some (.bit bit)) : (b.after t).outputs.pStored = bit := by
  rw [Board.outputs, response_after h hv, rdataOf, BitVec.setWidth_setWidth_of_le _ (by decide),
    BitVec.setWidth_eq]

theorem hAck_after {es : List Event} {bit : BitVec 1} (h : t.trace = b.block.trace ++ es)
    (hv : lastResponse .host es = some (.bit bit)) : (b.after t).outputs.hAck = bit := by
  rw [Board.outputs, response_after h hv, rdataOf, BitVec.setWidth_setWidth_of_le _ (by decide),
    BitVec.setWidth_eq]

theorem cRdata_after {es : List Event} {v : Response} (h : t.trace = b.block.trace ++ es)
    (hv : lastResponse .consumer es = some v) : (b.after t).outputs.cRdata = rdataOf v :=
  response_after h hv

end

/-! ## RESET and the busy port -/

/-- Settles O42: the clock's one order is RESET, and its equation of `exec` names the block it leaves. -/
theorem rstPerformsResetAndDiscardsTheRest : Obligations.RstPerformsResetAndDiscardsTheRest := by
  intro b p hf hr
  have hreset := (takeTurn_present_of (i := .reset) hf nofun).trans (exec_reset _)
  refine ⟨_, clock_of_one_turn (PortInputs.orders_rst hr b.block) hreset, ?block, rfl, rfl⟩
  case block =>
    rw [← idleReport_eq]
    rfl

/-- Settles O43: the busy port's one order is a DSTEP, which the invariant lets happen. -/
theorem busyPortAcceptsNoCommandAndStepsTheDrain : Obligations.BusyPortAcceptsNoCommandAndStepsTheDrain := by
  intro b p h hf hp hr hpr hhr
  obtain ⟨t, hd⟩ := dstep_of_inv h hp
  have horders := orders_eq hr (producerTurns_of_none hpr) (p.consumerTurns_busy hp) (hostTurns_of_none hhr)
  exact ⟨(State.busy_iff b.block).mpr hp, _,
    clock_of_one_turn horders ((takeTurn_present_dstep hf hp).trans hd), hd⟩

/-! ## The ports in a clock of their own -/

/-- Settles O44: `c_op` presents the word of its operation, whose equation of `exec` gives the response. -/
theorem consumerPortGivesTheResponse : Obligations.ConsumerPortGivesTheResponse := by
  intro b p h hf hp hr hpr hhr hcr
  have horders := orders_eq hr (producerTurns_of_none hpr) (consumerTurns_of_req hp hcr)
    (hostTurns_of_none hhr)
  have hrun : ∀ i : Instr, takeTurn (b.block.present (.of i)) = exec i (b.block.present (.of i)) :=
    fun i => takeTurn_present_of hf fun _ => hp
  refine ⟨fun hop hc => ?empty, fun hop hc => ?remove, fun hop => ?getcount, fun hop => ?cycle,
    fun hop => ?snapshot⟩ <;> rw [hop] at horders
  case empty =>
    have hfault := (exec_remove_ready (s := b.block.present (.of .remove)) hp).trans
      (removeBody_of_empty hc)
    exact clock_of_fault horders ((hrun .remove).trans hfault)
  case remove =>
    have hnext := exec_remove_of_pos (s := b.block.present (.of .remove)) hp hc
      (head_lt_of_inv (inv_present h _))
    exact ⟨_, clock_of_one_turn horders ((hrun .remove).trans hnext), hnext,
      cRdata_after (v := .byte (b.block.storage.read b.block.head.toNat)) rfl rfl⟩
  case getcount =>
    have hnext := exec_getcount_ready (s := b.block.present (.of .getcount)) hp
    exact ⟨_, clock_of_one_turn horders ((hrun .getcount).trans hnext), hnext,
      cRdata_after (v := .byte b.block.count) rfl rfl⟩
  case cycle =>
    have hcycle := exec_cycle_ready (s := b.block.present (.of .cycle)) hp
    by_cases hten : 10 ≤ b.block.count.toNat
    · have hnext := hcycle.trans (cycleBody_of_avail hten)
      exact ⟨_, clock_of_one_turn horders ((hrun .cycle).trans hnext), hnext, iff_of_true rfl hten⟩
    · have hnext := hcycle.trans (cycleBody_of_not_avail hten)
      have hidle : ¬(b.block.phase = .drain) := fun hdrain => absurd (hp.symm.trans hdrain) nofun
      exact ⟨_, clock_of_one_turn horders ((hrun .cycle).trans hnext), hnext,
        iff_of_false (mt (State.busy_iff _).mp hidle) hten⟩
  case snapshot =>
    have hnext := exec_snapshot_ready (s := b.block.present (.of .snapshot)) hp
    exact ⟨_, clock_of_one_turn horders ((hrun .snapshot).trans hnext), hnext,
      cRdata_after (v := .wide (reportBus b.block.report)) (List.append_assoc _ _ _) rfl⟩

/-- Settles O45: `p_stored` and `h_ack` are the response bits of INSERT and LEDWR. -/
theorem producerAndHostPortsGiveTheirResponses : Obligations.ProducerAndHostPortsGiveTheirResponses := by
  intro b p h hf hp hr hcr
  refine ⟨fun hpr hhr => ?producer, fun hpr hhr => ?host, fun hpr hhr => ?none⟩
  case producer =>
    have horders := orders_eq hr (producerTurns_of_req hpr) (consumerTurns_of_none hp hcr)
      (hostTurns_of_none hhr)
    have hrun := takeTurn_present_of (i := .insert p.pData) hf nofun
    by_cases hfull : b.block.count.toNat = 255
    · have hnext := exec_insert_of_full (d := p.pData)
        (s := b.block.present (.of (.insert p.pData))) ((State.full_iff b.block).mpr hfull)
      refine ⟨_, clock_of_one_turn horders (hrun.trans hnext), hnext, ?_⟩
      rw [if_pos hfull]
      exact pStored_after (List.append_assoc _ _ _) rfl
    · have hnext := exec_insert_store (inv_present h (.of (.insert p.pData))) hfull p.pData
      refine ⟨_, clock_of_one_turn horders (hrun.trans hnext), hnext, ?_⟩
      rw [if_neg hfull]
      exact pStored_after rfl rfl
  case host =>
    have horders := orders_eq hr (producerTurns_of_none hpr) (consumerTurns_of_none hp hcr)
      (hostTurns_of_req hhr)
    have hrun := takeTurn_present_of (i := .ledwr p.hLen p.hData) hf nofun
    by_cases hlen : p.hLen = 1
    · have hnext : exec (.ledwr p.hLen p.hData) (b.block.present (.of (.ledwr p.hLen p.hData))) = _ :=
        (congrArg (fun len => exec (.ledwr len p.hData) _) hlen).trans (exec_ledwr_accepted p.hData _)
      refine ⟨_, clock_of_one_turn horders (hrun.trans hnext), hnext, ?_⟩
      rw [if_pos hlen, if_pos hlen]
      exact ⟨hAck_after rfl rfl, indicatorOf_eq p.hData⟩
    · have hnext := exec_ledwr_rejected hlen p.hData (b.block.present (.of (.ledwr p.hLen p.hData)))
      refine ⟨_, clock_of_one_turn horders (hrun.trans hnext), hnext, ?_⟩
      rw [if_neg hlen, if_neg hlen]
      exact ⟨hAck_after (List.append_assoc _ _ _) rfl, rfl⟩
  case none =>
    have horders := orders_eq hr (producerTurns_of_none hpr) (consumerTurns_of_none hp hcr)
      (hostTurns_of_none hhr)
    simp [Board.clock, horders, Board.clockIn, takeTurns]

/-! ## INSERT and REMOVE in one clock -/

section

variable {b : Board} {s : State} {d : Byte}

/-- Presenting a turn and using it up leaves the schedule as it was. -/
theorem takeTurn_insert_of_room (h : Inv s) (hf : s.faultMark = none) (hroom : s.count.toNat ≠ 255)
    (d : Byte) : takeTurn (s.present (.of (.insert d))) = .next ((s.store d).respond .insert (.bit 1#1)) :=
  (takeTurn_present_of (i := .insert d) hf nofun).trans (exec_insert_store (inv_present h _) hroom d)

theorem takeTurn_insert_of_full (hf : s.faultMark = none) (hfull : s.count.toNat = 255) (d : Byte) :
    takeTurn (s.present (.of (.insert d))) =
      .next ((s.respond .insert (.bit 0#1)).emit (.drop d)) :=
  (takeTurn_present_of (i := .insert d) hf nofun).trans (exec_insert_of_full ((State.full_iff s).mpr hfull))

/-- The block after a REMOVE, but for its turn. -/
def State.remove (s : State) : State :=
  s.advanceHead.respond .remove (.byte (s.storage.read s.head.toNat))

theorem takeTurn_remove (hf : s.faultMark = none) (hp : s.phase = .ready) (hc : s.count ≠ 0)
    (hh : s.head.toNat < Config.C) : takeTurn (s.present (.of .remove)) = .next s.remove :=
  (takeTurn_present_of (i := .remove) hf fun _ => hp).trans
    (exec_remove_of_pos (s := s.present (.of .remove)) hp hc hh)

theorem inv_remove (h : Inv s) (hp : s.phase = .ready) (hc : s.count ≠ 0) : Inv s.remove :=
  exec_inv (inv_present h (.of .remove)) (exec_remove_of_pos hp hc (head_lt_of_inv (inv_present h _)))

/-- The response signals of a clock with an INSERT and a REMOVE, whichever came first. -/
theorem outputs_of_insert_and_remove {t : State} {es : List Event} {bit : BitVec 1} {v : Byte}
    (h : t.trace = b.block.trace ++ es) (hp : lastResponse .producer es = some (.bit bit))
    (hc : lastResponse .consumer es = some (.byte v)) :
    (b.after t).outputs.cRdata = v.setWidth 64 ∧ (b.after t).outputs.pStored = bit :=
  ⟨cRdata_after h hc, pStored_after h hp⟩

end

/-- Settles O46: the two serial orders are the two of O34, now at the signals. -/
theorem sameClockInsertAndRemoveLeaveASerialState :
    Obligations.SameClockInsertAndRemoveLeaveASerialState := by
  intro b p h hf hp hc hr hhr hpr hcr hop
  have hh : b.block.head.toNat < Config.C := head_lt_of_inv h
  obtain ⟨hpredRoom, hpredSucc⟩ := pred_count_of_inv h hc
  have horders := orders_eq hr (producerTurns_of_req hpr) (consumerTurns_of_req hp hcr)
    (hostTurns_of_none hhr)
  rw [hop] at horders
  have hremoveFirst := takeTurns_pair (takeTurn_remove hf hp hc hh)
    (takeTurn_insert_of_room (inv_remove h hp hc) hf hpredRoom p.pData)
  obtain ⟨hrdata, hstored⟩ := outputs_of_insert_and_remove (b := b)
    (t := (b.block.remove.store p.pData).respond .insert (.bit 1#1))
    (es := [.resp .consumer .remove (.byte (b.block.storage.read b.block.head.toNat)),
      .resp .producer .insert (.bit 1#1)])
    (List.append_assoc _ _ _) rfl rfl
  by_cases hfull : b.block.count.toNat = 255
  · have hinsertFirst := takeTurns_pair (takeTurn_insert_of_full hf hfull p.pData)
      (takeTurn_remove hf hp hc hh)
    obtain ⟨hrdata', hstored'⟩ := outputs_of_insert_and_remove (b := b)
      (t := ((b.block.respond .insert (.bit 0#1)).emit (.drop p.pData)).remove)
      (es := [.resp .producer .insert (.bit 0#1), .drop p.pData,
        .resp .consumer .remove (.byte (b.block.storage.read b.block.head.toNat))])
      (by simp [State.remove, OpName.owner]) rfl rfl
    exact ⟨_, _, clock_of_two_orders horders hinsertFirst hremoveFirst, hrdata', hrdata,
      fun hne => absurd hfull hne, fun _ => ⟨(count_pred hc).1.trans (by rw [hfull]), hstored',
      hpredSucc.trans hfull, hstored⟩⟩
  · have hinsertFirst := takeTurns_pair (takeTurn_insert_of_room h hf hfull p.pData)
      (takeTurn_remove hf hp (store_count_ne_zero hfull) hh)
    obtain ⟨hrdata', hstored'⟩ := outputs_of_insert_and_remove (b := b)
      (t := ((b.block.store p.pData).respond .insert (.bit 1#1)).remove)
      (es := [.resp .producer .insert (.bit 1#1),
        .resp .consumer .remove (.byte ((b.block.store p.pData).storage.read b.block.head.toNat))])
      (List.append_assoc _ _ _) rfl rfl
    rw [read_head_store h hc hfull] at hrdata'
    refine ⟨_, _, clock_of_two_orders horders hinsertFirst hremoveFirst, hrdata', hrdata,
      fun _ => ⟨⟨rfl, rfl, rfl, count_comm b.block.count, rfl, rfl, rfl, rfl, rfl, rfl⟩, ?count, hstored',
      hstored⟩, fun heq => absurd heq hfull⟩
    case count => exact BitVec.add_sub_cancel _ _

end Sys2Proof.Machine
end

section
/-! PROOF. The consumer's main loop (60_exceptions.md R184, 70_reset_and_hazards.md R213): one iteration from end to
end, and a whole frame on its way to the transport (20_memory.md R53). -/

namespace Sys2Proof.Machine

open Sys2Proof.Safety

section

variable {s u : State} {rest : List Turn}

/-- What every step leaves (`marksStayAndTraceOnlyGrows`), every run leaves. -/
theorem run_faultMark_trace {n : Nat} (h : core.run n s = .next u) :
    u.faultMark = s.faultMark ∧ ∃ es, u.trace = s.trace ++ es := by
  refine run_invariant (I := fun v : State => v.faultMark = s.faultMark ∧ ∃ es, v.trace = s.trace ++ es)
    (fun v t hv hstep => ?_) ⟨rfl, [], (List.append_nil _).symm⟩ h
  obtain ⟨hfault, es, htrace⟩ := hv
  obtain ⟨hfault', -, es', htrace'⟩ := marksStayAndTraceOnlyGrows v t hstep
  exact ⟨hfault'.trans hfault, es ++ es', by rw [htrace', htrace, List.append_assoc]⟩

/-- SNAPSHOT, presented by the consumer while phase = Ready. -/
theorem run_snapshot (hf : s.faultMark = none) (hp : s.phase = .ready)
    (hs : s.schedule = .command .consumer 0x5000 :: rest) :
    core.run 1 s = .next { s with
      trace := s.trace ++ [.resp .consumer .snapshot (.wide (reportBus s.report)), .sent s.report],
      schedule := rest } := by
  have hexec := step_of_decode_ok hf hs ((decode_ok_iff _ _ .snapshot).mpr ⟨rfl, encode_snapshot.symm⟩)
  obtain ⟨-, -, t, hnext, ht⟩ := snapshotAnswersTheReportAndChangesNothing s hp
  have hschedule : t.schedule = rest := by
    rw [(eachExecutedCommandUsesOneTurn .snapshot s t hnext).1 (.inr hp), hs, List.tail_cons]
  rw [hschedule] at ht
  exact ht ▸ run_of_step (hexec.trans hnext) 0

/-! ## CYCLE and its drain -/

/-- What CYCLE and the rest of its drain leave of `s`, when nothing comes between. -/
structure IterationEnds (s u : State) : Prop where
  phase : u.phase = .ready
  tail : u.tail = s.tail
  storage : u.storage = s.storage
  ledBits : u.ledBits = s.ledBits
  idle : s.count.toNat < 10 →
    u.count = s.count ∧ u.head = s.head ∧ u.report = idleReport ∧ u.indOut = false
  drained : 10 ≤ s.count.toNat → u.count.toNat = s.count.toNat - 10 ∧ u.indOut = s.indOut

/-- With fewer than ten bytes the iteration is the idle fallback, in two steps (log entry 16). -/
theorem iteration_idle (hf : s.faultMark = none) (hp : s.phase = .ready) (hlow : s.count.toNat < 10)
    (hs : s.schedule = .command .consumer 0x4000 :: .drain :: rest) :
    ∃ u, core.run 2 s = .next u ∧ u.schedule = rest ∧ IterationEnds s u := by
  have hcycle : step s = .next (s.idleFallback.emit (.cycle .idle)).spendTurn := by
    rw [step_of_decode_ok hf hs ((decode_ok_iff _ _ .cycle).mpr ⟨rfl, encode_cycle.symm⟩),
      exec_cycle_ready hp, cycleBody_of_not_avail (Nat.not_le.mpr hlow)]
  have hleft : (s.idleFallback.emit (.cycle .idle)).spendTurn.schedule = .drain :: rest :=
    congrArg List.tail hs
  have hdrain : step (s.idleFallback.emit (.cycle .idle)).spendTurn = _ :=
    (step_of_drain (s := (s.idleFallback.emit (.cycle .idle)).spendTurn) hf hleft).trans (drainTurn_ready hp)
  exact ⟨_, (run_of_step hcycle 1).trans (run_of_step hdrain 0), congrArg List.tail hleft,
    hp, rfl, rfl, rfl, fun _ => ⟨rfl, rfl, rfl, rfl⟩, fun hten => absurd hlow (Nat.not_lt.mpr hten)⟩

/-- With ten bytes or more the iteration takes the ten oldest, in eleven steps. -/
theorem iteration_drained (h : Inv s) (hf : s.faultMark = none) (hp : s.phase = .ready)
    (hten : 10 ≤ s.count.toNat) (hs : s.schedule = .command .consumer 0x4000 :: .drain :: rest) :
    ∃ u, core.run 11 s = .next u ∧ u.schedule = rest ∧ IterationEnds s u := by
  have hlen : (s.queue.take 10).length = 10 := by
    rw [List.length_take, s.queue_length, Nat.min_eq_left hten]
  have hqueue : s.queue = (⟨(s.queue.take 10).toArray, hlen⟩ : Vector Byte 10).toList ++ s.queue.drop 10 :=
    (List.take_append_drop 10 s.queue).symm
  obtain ⟨u, hrun, -, -, hcount, hphase, -, hschedule, hframe, -⟩ :=
    drainRemovesTenBytesAndMatchesAtTheirFront s rest _ _ h hf hp hqueue hs
  have hkept : u.tail = s.tail ∧ u.storage = s.storage ∧ u.ledBits = s.ledBits ∧ u.indOut = s.indOut := by
    rw [hframe]
    exact ⟨rfl, rfl, rfl, rfl⟩
  obtain ⟨htail, hstorage, hled, hind⟩ := hkept
  exact ⟨u, hrun, hschedule, hphase, htail, hstorage, hled,
    fun hlow => absurd hlow (Nat.not_lt.mpr hten), fun _ => ⟨hcount, hind⟩⟩

theorem iteration_ends (h : Inv s) (hf : s.faultMark = none) (hp : s.phase = .ready)
    (hs : s.schedule = .command .consumer 0x4000 :: .drain :: rest) :
    ∃ n u, n ≤ 11 ∧ core.run n s = .next u ∧ u.schedule = rest ∧ IterationEnds s u := by
  by_cases hten : 10 ≤ s.count.toNat
  · obtain ⟨u, hu⟩ := iteration_drained h hf hp hten hs
    exact ⟨11, u, le_rfl, hu⟩
  · obtain ⟨u, hu⟩ := iteration_idle hf hp (Nat.lt_of_not_le hten) hs
    exact ⟨2, u, by decide, hu⟩

/-- The turns of `C: ITER r` (30_encoding.md R81), their words as numbers. -/
theorem assemble_iter (ready : Bool) :
    assemble [.iter ready] =
      [.command .consumer 0x4000, .drain] ++ if ready then [.command .consumer 0x5000] else [] := by
  cases ready <;> decide

end

/-- Settles O40: CYCLE with its drain, and with readiness 1 one more step, the SNAPSHOT. -/
theorem aMainLoopIterationEndsWithinTwelveSteps : Obligations.AMainLoopIterationEndsWithinTwelveSteps := by
  intro s ready rest h hf hp hs
  rw [assemble_iter, List.append_assoc] at hs
  obtain ⟨n, u, hn, hrun, hschedule, hends⟩ := iteration_ends h hf hp hs
  obtain ⟨hfault, es, htrace⟩ := run_faultMark_trace hrun
  cases ready with
  | false =>
    exact ⟨n, u, by omega, hrun, hschedule, hends.phase, hends.tail, hends.storage, hends.ledBits,
      hends.idle, hends.drained, nofun⟩
  | true =>
    have hsnapshot := run_snapshot (hfault.trans hf) hends.phase hschedule
    exact ⟨n + 1, _, by omega, (run_add hrun 1).trans hsnapshot, rfl, hends.phase, hends.tail,
      hends.storage, hends.ledBits, hends.idle, hends.drained, fun _ => ⟨es, congrArg (· ++ _) htrace⟩⟩

/-! ## A frame -/

/-- A frame as the ten bytes the drain takes (20_memory.md R53). -/
def frameBytes (b : Vector Byte 8) : Vector Byte 10 := ⟨(0xFF :: 0xFE :: b.toList).toArray, by simp⟩

theorem frameBytes_toList (b : Vector Byte 8) : (frameBytes b).toList = 0xFF :: 0xFE :: b.toList :=
  rfl

theorem payload_of_frameBytes (b : Vector Byte 8) : payloadOf (frameBytes b) = b := by
  refine Vector.ext fun i hi => (payloadOf_get (frameBytes b) hi).trans ?_
  simp [frameBytes]

/-- Settles O39: ten INSERTs are stored, the drain of their ten bytes matches, and SNAPSHOT sends the payload. -/
theorem aFrameReachesTheTransport : Obligations.AFrameReachesTheTransport := by
  intro s b rest h hf hp hc hs
  rw [← frameBytes_toList, List.append_assoc] at hs
  have hlen : (frameBytes b).toList.length = 10 := Vector.length_toList
  obtain ⟨t, ht⟩ := exists_storedAll (ds := (frameBytes b).toList) h (by rw [hc, hlen]; decide)
  have hinserts : core.run 10 s = .next t := hlen ▸ ht.run _ hf hs
  have hts : t.schedule = .command .consumer 0x4000 :: .drain :: .command .consumer 0x5000 :: rest := by
    rw [ht.frame, hs]
    exact List.drop_left' (by rw [List.length_map])
  have htf : t.faultMark = none := (run_faultMark_trace hinserts).1.trans hf
  have htp : t.phase = .ready := by rw [ht.frame, hp]
  have htq : t.queue = (frameBytes b).toList ++ [] := by
    rw [ht.queue, State.queue_of_count_zero hc, List.nil_append, List.append_nil]
  obtain ⟨u, hdrain, huq, -, -, hup, -, hus, huframe, hmatched, -⟩ :=
    drainRemovesTenBytesAndMatchesAtTheirFront t _ (frameBytes b) [] ht.inv htf htp htq hts
  obtain ⟨hreport, hutrace⟩ := hmatched ⟨rfl, rfl⟩
  rw [← payloadOf_eq, payload_of_frameBytes] at hreport
  have huf : u.faultMark = none := (run_faultMark_trace hdrain).1.trans htf
  have hsnapshot := run_snapshot huf hup hus
  have hrun : core.run 22 s = _ :=
    (run_add hinserts 12).trans ((run_add hdrain 1).trans hsnapshot)
  have hucount : u.count = 0 := BitVec.eq_of_toNat_eq (by rw [← u.queue_length, huq]; rfl)
  refine ⟨_, hrun, rfl, hreport, hucount, hup, ?led, ?indicator, ?trace⟩
  case led => rw [huframe, ht.frame]
  case indicator => rw [huframe, ht.frame]
  case trace =>
    have httrace : t.trace = s.trace ++ List.replicate 10 (.resp .producer .insert (.bit 1#1)) := by
      rw [ht.frame, hlen]
    simp only [hutrace, httrace, hreport, List.append_assoc, List.cons_append, List.nil_append]

end Sys2Proof.Machine
end
